-- ==== Sys2Proof/Word.lean ====
section
/-! DEFINITION. The word of the machine, the number of a general register, and the DIP switches: 00_scope.md R7, 10_state.md R21, R35. -/

namespace Sys2Proof

/-- A word: 16 bits, the only unit of storage, addressing and transfer (00_scope.md R7, 20_memory.md R50). -/
abbrev Word := BitVec 16

/-- The number of one of the 8 general registers; every value of a 3-bit register field is legal (10_state.md R21). -/
abbrev RegNum := Fin 8

/-- A setting of the 16 DIP switches, two banks of 8 (10_state.md R35). -/
structure Switches where
  /-- The upper bank: bits 15..8 of the word. -/
  upper : BitVec 8
  /-- The lower bank: bits 7..0 of the word. -/
  lower : BitVec 8
  deriving DecidableEq, Repr, Inhabited

end Sys2Proof
end

