-- ==== Sys2Proof/Config.lean ====
section
/-! DEFINITION. What the hardware fixes once, the type of its decided parameters (00_scope.md R6), and the free values. The values of the decided parameters stand in Decode.lean (`params`). -/

namespace Sys2Proof

/-- Words of the instruction memory (IMEM_WORDS, 00_scope.md R6). -/
def Config.imemWords : Nat := 4096

/-- Words of the data memory (DMEM_WORDS, 00_scope.md R6). -/
def Config.dmemWords : Nat := 4096

/-- The address of the first instruction executed (RESET_PC, 00_scope.md R6). -/
def Config.resetPc : Word := 1#16

/-- The two readings of which field names the register that ADDI and the shifts read (90_conflicts.md C3, C4). -/
inductive Config.SrcSel where
  /-- The field Rs, bits 13:11: the two prose statements, the spec's choice. -/
  | rs
  /-- The field Rd, bits 10:8: the formula of table 1.1. -/
  | rd
  deriving DecidableEq, Repr

/-- The decided parameters of 00_scope.md R6 that change what the machine does. -/
structure Config.Params where
  /-- BNE_COND: the `cond` value that selects BNE (92_eei_decisions.md D1). -/
  bneCond : BitVec 3
  /-- SRC_SEL: the register read by ADDI, SLL, SLR, SRL, SRA (92_eei_decisions.md D2). -/
  srcSel : Config.SrcSel
  /-- SHIFT_V: the value V takes after a shift (92_eei_decisions.md D5). -/
  shiftV : Bool
  deriving DecidableEq, Repr

/-- FREE VALUE (IN_VALUE, 92_eei_decisions.md D14): the switches an IN finds when the launch names no further setting, one for each draw. Log entry 6. -/
opaque Config.freeSwitches : Nat → Switches

/-- FREE VALUE (10_state.md R29, 93_implementation_defined.md U11): condition code C after ADD, SUB, CMP, ADDI or a shift, one for each draw. Log entry 8. -/
opaque Config.freeC : Nat → Bool

end Sys2Proof
end

