-- ==== Sys2Proof/Syntax.lean ====
section
/-! DEFINITION. The 23 instructions of spec/opcode_table.json with the operands each one uses (10_state.md R22; 30_encoding.md R89, R90, R91). Fields an instruction does not use are no part of it (30_encoding.md R92). Operands stand in the order of the spec's own syntax, destination first (30_encoding.md R96). -/

namespace Sys2Proof

/-- An instruction. `rd`, `rs` are the fields Rd, Rs of format R; `ra`, `rb` the fields Ra, Rb of formats M and I;
`d` is d4 (ADDI) or d8; `n` is the shift count, `unsigned(d4)`. -/
inductive Instr where
  | add (rd rs : RegNum)
  | sub (rd rs : RegNum)
  | and (rd rs : RegNum)
  | or (rd rs : RegNum)
  | xor (rd rs : RegNum)
  | cmp (rd rs : RegNum)
  | mov (rd rs : RegNum)
  | addi (rd rs : RegNum) (d : BitVec 4)
  | sll (rd rs : RegNum) (n : Nat)
  | slr (rd rs : RegNum) (n : Nat)
  | srl (rd rs : RegNum) (n : Nat)
  | sra (rd rs : RegNum) (n : Nat)
  /-- IN (`in` is a word of Lean's own). -/
  | inp (rd : RegNum)
  | out (rs : RegNum)
  | halt
  | ld (ra rb : RegNum) (d : BitVec 8)
  | st (ra rb : RegNum) (d : BitVec 8)
  | li (rb : RegNum) (d : BitVec 8)
  | b (d : BitVec 8)
  | be (d : BitVec 8)
  | blt (d : BitVec 8)
  | ble (d : BitVec 8)
  | bne (d : BitVec 8)
  deriving DecidableEq, Repr

end Sys2Proof
end

