-- ==== Sys2Proof/WellFormed.lean ====
section
/-! DEFINITION. Which terms of Instr an instruction word can express. Register numbers and immediates are exact by their types; the one thing to check is that a shift count fits the 4-bit field (30_encoding.md R86, 41_shift.md R130). -/

namespace Sys2Proof

/-- A shift count lies in 0..15: "a count of 16 or more cannot be encoded" (41_shift.md R130). -/
def countFits (n : Nat) : Bool := decide (n < 16)

/-- The instruction can be written as an instruction word. -/
def Instr.wf : Instr → Bool
  | .add _ _ => true
  | .sub _ _ => true
  | .and _ _ => true
  | .or _ _ => true
  | .xor _ _ => true
  | .cmp _ _ => true
  | .mov _ _ => true
  | .addi _ _ _ => true
  | .sll _ _ n => countFits n
  | .slr _ _ n => countFits n
  | .srl _ _ n => countFits n
  | .sra _ _ n => countFits n
  | .inp _ => true
  | .out _ => true
  | .halt => true
  | .ld _ _ _ => true
  | .st _ _ _ => true
  | .li _ _ => true
  | .b _ => true
  | .be _ => true
  | .blt _ => true
  | .ble _ => true
  | .bne _ => true

end Sys2Proof
end

