-- ==== Sys2Proof/Decode.lean ====
section
/-! DEFINITION. The machine's decided parameters, the total decoder (30_encoding.md R88) and the encoder (30_encoding.md R82 to R85, R96). -/

namespace Sys2Proof

/-- The parameters at the spec's defaults: 00_scope.md R6, 92_eei_decisions.md D1, D2, D5. Log entries 10, 11, 12. -/
def params : Config.Params := { bneCond := 0b011#3, srcSel := .rs, shiftV := false }

/-- The two verdicts of the decoder on a word that is no instruction (30_encoding.md R88, R93). -/
inductive DecodeError where
  /-- Classes (a), (b), (c) of R93: named by no part of the source. -/
  | reserved
  /-- Class (d) of R93: one part of the source gives it to BNE, another does not. -/
  | contested
  deriving DecidableEq, Repr

/-- op1, bits 15:14 (30_encoding.md R81). -/
def opField (w : Word) : BitVec 2 := w.extractLsb' 14 2

/-- Rs, Ra or op2, bits 13:11 (30_encoding.md R81). -/
def sourceField (w : Word) : BitVec 3 := w.extractLsb' 11 3

/-- Rd, Rb or cond, bits 10:8 (30_encoding.md R81). -/
def destField (w : Word) : BitVec 3 := w.extractLsb' 8 3

/-- op3, bits 7:4 (30_encoding.md R81). -/
def functionField (w : Word) : BitVec 4 := w.extractLsb' 4 4

/-- d4, bits 3:0 (30_encoding.md R81). -/
def d4Field (w : Word) : BitVec 4 := w.extractLsb' 0 4

/-- d8, bits 7:0 (30_encoding.md R81). -/
def d8Field (w : Word) : BitVec 8 := w.extractLsb' 0 8

/-- Format R by its function code (30_encoding.md R88, R89). -/
def decodeFormatR (rs rd : RegNum) (op3 d4 : BitVec 4) : Except DecodeError Instr :=
  match op3 with
  | 0b0000#4 => .ok (.add rd rs)
  | 0b0001#4 => .ok (.sub rd rs)
  | 0b0010#4 => .ok (.and rd rs)
  | 0b0011#4 => .ok (.or rd rs)
  | 0b0100#4 => .ok (.xor rd rs)
  | 0b0101#4 => .ok (.cmp rd rs)
  | 0b0110#4 => .ok (.mov rd rs)
  | 0b0111#4 => .ok (.addi rd rs d4)
  | 0b1000#4 => .ok (.sll rd rs d4.toNat)
  | 0b1001#4 => .ok (.slr rd rs d4.toNat)
  | 0b1010#4 => .ok (.srl rd rs d4.toNat)
  | 0b1011#4 => .ok (.sra rd rs d4.toNat)
  | 0b1100#4 => .ok (.inp rd)
  | 0b1101#4 => .ok (.out rs)
  | 0b1111#4 => .ok .halt
  | _ => .error .reserved

/-- Format C by its condition (30_encoding.md R88, R91; 45_cond_branch.md R175). Of the two values 011 and 111 that the source
gives to BNE, the one that is not BNE_COND is contested. -/
def decodeFormatC (p : Config.Params) (cond : BitVec 3) (d8 : BitVec 8) : Except DecodeError Instr :=
  match cond with
  | 0b000#3 => .ok (.be d8)
  | 0b001#3 => .ok (.blt d8)
  | 0b010#3 => .ok (.ble d8)
  | 0b011#3 => if p.bneCond = 0b011#3 then .ok (.bne d8) else .error .contested
  | 0b111#3 => if p.bneCond = 0b111#3 then .ok (.bne d8) else .error .contested
  | _ => .error .reserved

/-- The group op1 = 10: formats I and C (30_encoding.md R88, R90). -/
def decodeFormatI (p : Config.Params) (op2 field : BitVec 3) (d8 : BitVec 8) : Except DecodeError Instr :=
  match op2 with
  | 0b000#3 => .ok (.li field.toFin d8)
  | 0b100#3 => .ok (.b d8)
  | 0b111#3 => decodeFormatC p field d8
  | _ => .error .reserved

/-- The decoder of 30_encoding.md R88 under the parameters `p`: total on all 65536 words. -/
def decodeWith (p : Config.Params) (w : Word) : Except DecodeError Instr :=
  match opField w with
  | 0b00#2 => .ok (.ld (sourceField w).toFin (destField w).toFin (d8Field w))
  | 0b01#2 => .ok (.st (sourceField w).toFin (destField w).toFin (d8Field w))
  | 0b11#2 => decodeFormatR (sourceField w).toFin (destField w).toFin (functionField w) (d4Field w)
  | _ => decodeFormatI p (sourceField w) (destField w) (d8Field w)

/-- The machine's decoder. -/
def decode (w : Word) : Except DecodeError Instr := decodeWith params w

/-- Format R: `11 ‖ Rs ‖ Rd ‖ op3 ‖ d4` (30_encoding.md R82). -/
def formatR (rs rd : RegNum) (op3 d4 : BitVec 4) : Word :=
  0b11#2 ++ BitVec.ofFin (w := 3) rs ++ BitVec.ofFin (w := 3) rd ++ op3 ++ d4

/-- Format M: `op1 ‖ Ra ‖ Rb ‖ d8` (30_encoding.md R83). -/
def formatM (op1 : BitVec 2) (ra rb : RegNum) (d8 : BitVec 8) : Word :=
  op1 ++ BitVec.ofFin (w := 3) ra ++ BitVec.ofFin (w := 3) rb ++ d8

/-- Formats I and C: `10 ‖ op2 ‖ Rb or cond ‖ d8` (30_encoding.md R84, R85). -/
def formatI (op2 field : BitVec 3) (d8 : BitVec 8) : Word :=
  0b10#2 ++ op2 ++ field ++ d8

/-- The word of a well-formed instruction, unused fields zero (30_encoding.md R89 to R91, R96). -/
def encodeWith (p : Config.Params) : Instr → Word
  | .add rd rs => formatR rs rd 0b0000#4 0#4
  | .sub rd rs => formatR rs rd 0b0001#4 0#4
  | .and rd rs => formatR rs rd 0b0010#4 0#4
  | .or rd rs => formatR rs rd 0b0011#4 0#4
  | .xor rd rs => formatR rs rd 0b0100#4 0#4
  | .cmp rd rs => formatR rs rd 0b0101#4 0#4
  | .mov rd rs => formatR rs rd 0b0110#4 0#4
  | .addi rd rs d => formatR rs rd 0b0111#4 d
  | .sll rd rs n => formatR rs rd 0b1000#4 (BitVec.ofNat 4 n)
  | .slr rd rs n => formatR rs rd 0b1001#4 (BitVec.ofNat 4 n)
  | .srl rd rs n => formatR rs rd 0b1010#4 (BitVec.ofNat 4 n)
  | .sra rd rs n => formatR rs rd 0b1011#4 (BitVec.ofNat 4 n)
  | .inp rd => formatR 0 rd 0b1100#4 0#4
  | .out rs => formatR rs 0 0b1101#4 0#4
  | .halt => formatR 0 0 0b1111#4 0#4
  | .ld ra rb d => formatM 0b00#2 ra rb d
  | .st ra rb d => formatM 0b01#2 ra rb d
  | .li rb d => formatI 0b000#3 (BitVec.ofFin (w := 3) rb) d
  | .b d => formatI 0b100#3 0#3 d
  | .be d => formatI 0b111#3 0b000#3 d
  | .blt d => formatI 0b111#3 0b001#3 d
  | .ble d => formatI 0b111#3 0b010#3 d
  | .bne d => formatI 0b111#3 p.bneCond d

/-- The machine's encoder. -/
def encode (i : Instr) : Word := encodeWith params i

/-- The instruction the decoder reads from the `nbits` bits `w` of an opcode-table row, the bits above `nbits` zero. -/
def decodeTableWord (nbits w : Nat) : Option Instr :=
  match decode (BitVec.ofNat 16 (w % 2 ^ nbits)) with
  | .ok i => some i
  | .error _ => none

end Sys2Proof
end

