-- ==== Sys2Proof/Machine/State.lean ====
section
/-! DEFINITION. The state of the machine (10_state.md R20), its start (10_state.md R39), and the ways a step can stop (60_exceptions.md R181). -/

namespace Sys2Proof.Machine

/-- One memory: a list of (word address, word) pairs, addresses strictly rising, no pair that holds what an unlisted address
reads as (`Memory.wf`). The unit is the 16-bit word: 20_memory.md R51 says to introduce no bytes. Log entry 21. -/
abbrev Memory := List (Nat × Word)

/-- What an unlisted address reads as. DESIGN CHOICE, log entry 4: the spec leaves every word to the launch. -/
def Memory.unlisted : Word := 0#16

/-- The condition codes (10_state.md R26, R29). -/
structure Flags where
  /-- S: the result was negative. -/
  s : Bool
  /-- Z: the result was zero. -/
  z : Bool
  /-- V: the exact result left the signed 16-bit range. -/
  v : Bool
  /-- C: named by the source, defined nowhere, read by nothing (10_state.md R29). -/
  c : Bool
  deriving DecidableEq, Repr

/-- The state of the machine: 10_state.md R20, with the launch's parameters and the bookkeeping of R39. -/
structure State where
  /-- The general registers x[0] to x[7] (10_state.md R21). -/
  regs : Vector Word 8
  /-- The address of the current instruction (10_state.md R23). -/
  pc : Word
  /-- The condition codes (10_state.md R26, R29). -/
  flags : Flags
  /-- The instruction memory, a parameter of the launch (10_state.md R33). -/
  imem : Memory
  /-- The data memory (10_state.md R34). -/
  dmem : Memory
  /-- The output latch (10_state.md R36). -/
  out : Word
  /-- Every word written by OUT, oldest first (10_state.md R36). -/
  outTrace : List Word
  /-- The halted bit (10_state.md R37). -/
  halted : Bool
  /-- The switch settings the launch names for the next IN instructions, next first (10_state.md R20, R35). -/
  inputs : List Switches
  /-- Which registers have been written since the start of the launch (10_state.md R39). -/
  regsWritten : Vector Bool 8
  /-- Whether a flag writer has run since the start of the launch (10_state.md R39). -/
  flagsWritten : Bool
  /-- The model's own counter of free values drawn. Log entry 7. -/
  draws : Nat
  deriving DecidableEq, Repr

/-- The state right after the download, with nothing listed in either memory: `pc` 1, not halted, nothing written, empty trace
(10_state.md R39). The registers, flags and `out` have no value in the spec: DESIGN CHOICE 0, log entries 1, 2, 3, 5. -/
def State.reset : State where
  regs := Vector.replicate 8 0#16
  pc := Config.resetPc
  flags := { s := false, z := false, v := false, c := false }
  imem := []
  dmem := []
  out := 0#16
  outTrace := []
  halted := false
  inputs := []
  regsWritten := Vector.replicate 8 false
  flagsWritten := false
  draws := 0

/-- Why the machine is stuck. -/
inductive Fault where
  /-- Raised by `step` on a halted machine: "when `halted = 1` there is no step" (10_state.md R25). The state is final, this is no
  error. Safe: the spec gives a halted machine no further step. -/
  | halted
  deriving DecidableEq, Repr

/-- The spec's `refuse` outcomes (60_exceptions.md R181) that stop the model. -/
inductive Refusal where
  /-- Raised by an arm of `exec` that has no meaning yet; no arm does. Safe: the machine stops. -/
  | notModelled (mnemonic : String)
  /-- Raised by the fetch at an address of 4096 or above (10_state.md R23, 20_memory.md R58). Safe: the source does not say what the
  hardware does. -/
  | fetchOutOfRange
  /-- Raised by the decoding of a word of class (a), (b) or (c) of 30_encoding.md R93. Safe: the source gives it no meaning. -/
  | reservedEncoding
  /-- Raised by the decoding of a word that only one of two parts of the source gives to BNE (45_cond_branch.md R175). Safe: the spec
  gives it no meaning. -/
  | contestedEncoding
  /-- Raised by LD and ST at an effective address of 4096 or above (20_memory.md R56). Safe: the source does not say what the
  hardware does. -/
  | dataAddressOutOfRange
  deriving DecidableEq, Repr

/-- What a step answers. -/
abbrev Result := Host.Outcome State Fault Refusal

end Sys2Proof.Machine
end

