-- ==== Sys2Proof/Machine/Ops.lean ====
section
/-! DEFINITION. The named operations over memories, registers, `pc`, the ports and the fetch (00_scope.md R10, 20_memory.md R57, R58). The machine has no exception to enter and none to return from (60_exceptions.md R180, R184, R185), so no such operation stands here. -/

namespace Sys2Proof.Machine

/-- The word at an address: the listed one, else what an unlisted address reads as. -/
def Memory.read : Memory → Nat → Word
  | [], _ => Memory.unlisted
  | (a, v) :: m, k => if k = a then v else Memory.read m k

/-- The memory without the word listed at address `k`. -/
def Memory.without (m : Memory) (k : Nat) : Memory := m.filter fun p => p.1 != k

/-- The memory with the pair `(k, v)` put before the first listed address above `k`. -/
def Memory.insertAt : Memory → Nat → Word → Memory
  | [], k, v => [(k, v)]
  | (a, x) :: m, k, v => if k < a then (k, v) :: (a, x) :: m else (a, x) :: Memory.insertAt m k v

/-- The memory with word `v` at address `k`, in canonical form again: a word equal to what an unlisted address reads as is not listed. -/
def Memory.write (m : Memory) (k : Nat) (v : Word) : Memory :=
  if v = Memory.unlisted then m.without k else (m.without k).insertAt k v

/-- The addresses rise strictly from `lo` on, stay below `words`, and no pair holds what an unlisted address reads as. -/
def Memory.wfFrom (words : Nat) : Nat → Memory → Bool
  | _, [] => true
  | lo, (a, v) :: m =>
    decide (lo ≤ a) && decide (a < words) && decide (v ≠ Memory.unlisted) && Memory.wfFrom words (a + 1) m

/-- The canonical form of a memory of `words` words. -/
def Memory.wf (words : Nat) (m : Memory) : Bool := Memory.wfFrom words 0 m

/-- The memory that holds the listed words at consecutive addresses from `a` on. -/
def Memory.ofWordsFrom : Nat → List Word → Memory
  | _, [] => []
  | a, w :: ws =>
    if w = Memory.unlisted then Memory.ofWordsFrom (a + 1) ws else (a, w) :: Memory.ofWordsFrom (a + 1) ws

/-- Read of general register `r` (`x[r]` of 00_scope.md R10). -/
def State.readReg (s : State) (r : RegNum) : Word := s.regs[r.val]

/-- Whether register `r` has been written since the start of the launch (10_state.md R39). -/
def State.regWritten (s : State) (r : RegNum) : Bool := s.regsWritten[r.val]

/-- `x[r] <- v` (00_scope.md R10): no register is hardwired (10_state.md R21). -/
def State.writeReg (s : State) (r : RegNum) (v : Word) : State :=
  { s with regs := s.regs.set r.val v, regsWritten := s.regsWritten.set r.val true }

/-- `pc <- pc + 1`, modulo 2^16 (10_state.md R23, R24). -/
def State.advance (s : State) : State := { s with pc := s.pc + 1#16 }

/-- `pc <- t` (00_scope.md R10). -/
def State.jump (s : State) (t : Word) : State := { s with pc := t }

/-- `halted <- 1`, nothing else changes (42_io_halt.md R142). -/
def State.halt (s : State) : State := { s with halted := true }

/-- `Out(v)`: the latch takes `v` and the trace grows by it (42_io_halt.md R141). -/
def State.output (s : State) (v : Word) : State := { s with out := v, outTrace := s.outTrace ++ [v] }

/-- The word of a switch setting: the upper bank on top (10_state.md R35). -/
def switchWord (sw : Switches) : Word := sw.upper ++ sw.lower

/-- The setting the next IN finds: the next one the launch names, else a free value (42_io_halt.md R140). Log entry 6. -/
def State.currentSwitches (s : State) : Switches :=
  match s.inputs with
  | [] => Config.freeSwitches s.draws
  | sw :: _ => sw

/-- The state after an IN has looked at the switches: the named setting is used up, or a free value is drawn. -/
def State.switchesSeen (s : State) : State :=
  match s.inputs with
  | [] => { s with draws := s.draws + 1 }
  | _ :: rest => { s with inputs := rest }

/-- `MemRead(addr, 1)` (20_memory.md R57). -/
def State.memRead (s : State) (ea : Word) : Except Refusal Word :=
  if ea.toNat < Config.dmemWords then .ok (s.dmem.read ea.toNat) else .error .dataAddressOutOfRange

/-- `MemWrite(addr, 1, v)` (20_memory.md R57). -/
def State.memWrite (s : State) (ea v : Word) : Except Refusal State :=
  if ea.toNat < Config.dmemWords then .ok { s with dmem := s.dmem.write ea.toNat v }
  else .error .dataAddressOutOfRange

/-- `Fetch(pc)` (20_memory.md R58). -/
def State.fetch (s : State) : Except Refusal Word :=
  if s.pc.toNat < Config.imemWords then .ok (s.imem.read s.pc.toNat) else .error .fetchOutOfRange

/-- The refusal for a word that is no instruction (30_encoding.md R93, 60_exceptions.md R181). -/
def decodeRefusal : DecodeError → Refusal
  | .reserved => .reservedEncoding
  | .contested => .contestedEncoding

/-- The instruction the next step runs, or why there is none: steps (1) to (3) of 10_state.md R25. -/
def State.fetchInstr (s : State) : Except Refusal Instr :=
  match s.fetch with
  | .error r => .error r
  | .ok w =>
    match decode w with
    | .error e => .error (decodeRefusal e)
    | .ok i => .ok i

end Sys2Proof.Machine
end

