-- ==== Sys2Proof/Machine/Flags.lean ====
section
/-! DEFINITION. The condition codes: how the flag writers compute them (40_arith_logic.md R111, 41_shift.md R135, 10_state.md R29) and what the conditional branches test (45_cond_branch.md R171 to R174). -/

namespace Sys2Proof.Machine

/-- V of an addition `res = a + b` (40_arith_logic.md R111). -/
def addOverflow (a b res : Word) : Bool := (a.msb == b.msb) && (res.msb != a.msb)

/-- V of a subtraction `res = a - b` (40_arith_logic.md R111). -/
def subOverflow (a b res : Word) : Bool := (a.msb != b.msb) && (res.msb != a.msb)

/-- S and Z from the 16-bit result, V and C as given (40_arith_logic.md R111). -/
def resultFlags (res : Word) (v c : Bool) : Flags := { s := res.msb, z := res == 0#16, v := v, c := c }

/-- The flags of AND, OR, XOR and MOV: V and C become 0 (40_arith_logic.md R114 to R118, 10_state.md R29). -/
def State.setFlagsClearC (s : State) (res : Word) : State :=
  { s with flags := resultFlags res false false, flagsWritten := true }

/-- The flags of the other eight flag writers: V as given, C a free value (10_state.md R29). Log entry 8. -/
def State.setFlagsFreeC (s : State) (res : Word) (v : Bool) : State :=
  { s with flags := resultFlags res v (Config.freeC s.draws), flagsWritten := true, draws := s.draws + 1 }

/-- BE is taken when Z = 1 (45_cond_branch.md R171). -/
def condEqual (f : Flags) : Bool := f.z

/-- BLT is taken when S xor V = 1 (45_cond_branch.md R172). -/
def condLess (f : Flags) : Bool := f.s ^^ f.v

/-- BLE is taken when Z = 1 or S xor V = 1 (45_cond_branch.md R173). -/
def condLessEqual (f : Flags) : Bool := f.z || (f.s ^^ f.v)

/-- BNE is taken when Z = 0 (45_cond_branch.md R174). -/
def condNotEqual (f : Flags) : Bool := !f.z

end Sys2Proof.Machine
end

