-- ==== Sys2Proof/Machine/Operands.lean ====
section
/-! DEFINITION. Operand forms: immediates (30_encoding.md R86, R87), the effective address (43_load_store.md R150), the branch target (44_li_branch.md R161), the source of ADDI and the shifts (90_conflicts.md C3, C4), and the four shifts (41_shift.md). -/

namespace Sys2Proof.Machine

/-- `sext_16` of the 4-bit immediate (30_encoding.md R86). -/
def sext4 (d : BitVec 4) : Word := d.signExtend 16

/-- `sext_16` of the 8-bit immediate (30_encoding.md R87). -/
def sext8 (d : BitVec 8) : Word := d.signExtend 16

/-- The effective address `(x[Rb] + sext_16(d8))[15:0]` (43_load_store.md R150). -/
def State.effAddr (s : State) (rb : RegNum) (d : BitVec 8) : Word := s.readReg rb + sext8 d

/-- The target `(pc + 1 + sext_16(d8))[15:0]`, `pc` the address of the branch (44_li_branch.md R161). -/
def State.branchTarget (s : State) (d : BitVec 8) : Word := s.pc + 1#16 + sext8 d

/-- The register that ADDI and the shifts read under a reading of SRC_SEL (40_arith_logic.md R119, 41_shift.md R130). -/
def immSource (sel : Config.SrcSel) (rd rs : RegNum) : RegNum :=
  match sel with
  | .rs => rs
  | .rd => rd

/-- SLL: shift left, zeros in the vacated part (41_shift.md R131). -/
def shiftLeftLogical (src : Word) (n : Nat) : Word := src <<< n

/-- SLR: shift left, the shifted-out bits in the vacated part (41_shift.md R132). -/
def rotateLeft (src : Word) (n : Nat) : Word := src.rotateLeft n

/-- SRL: shift right, zeros in the vacated part (41_shift.md R133). -/
def shiftRightLogical (src : Word) (n : Nat) : Word := src >>> n

/-- SRA: shift right, the sign bit in the vacated part (41_shift.md R134). -/
def shiftRightArith (src : Word) (n : Nat) : Word := src.sshiftRight n

end Sys2Proof.Machine
end

