-- ==== Sys2Proof/Machine/Arith.lean ====
section
/-! DEFINITION. ADD, SUB, AND, OR, XOR, CMP, MOV, ADDI: 40_arith_logic.md R110 to R120. -/

namespace Sys2Proof.Machine

/-- ADD (40_arith_logic.md R112). -/
def execAdd (rd rs : RegNum) (s : State) : Result :=
  let a := s.readReg rd
  let b := s.readReg rs
  let res := a + b
  .next (((s.writeReg rd res).setFlagsFreeC res (addOverflow a b res)).advance)

/-- SUB: `x[Rd] - x[Rs]` (40_arith_logic.md R113). -/
def execSub (rd rs : RegNum) (s : State) : Result :=
  let a := s.readReg rd
  let b := s.readReg rs
  let res := a - b
  .next (((s.writeReg rd res).setFlagsFreeC res (subOverflow a b res)).advance)

/-- AND (40_arith_logic.md R114). -/
def execAnd (rd rs : RegNum) (s : State) : Result :=
  let res := s.readReg rd &&& s.readReg rs
  .next (((s.writeReg rd res).setFlagsClearC res).advance)

/-- OR (40_arith_logic.md R115). -/
def execOr (rd rs : RegNum) (s : State) : Result :=
  let res := s.readReg rd ||| s.readReg rs
  .next (((s.writeReg rd res).setFlagsClearC res).advance)

/-- XOR (40_arith_logic.md R116). -/
def execXor (rd rs : RegNum) (s : State) : Result :=
  let res := s.readReg rd ^^^ s.readReg rs
  .next (((s.writeReg rd res).setFlagsClearC res).advance)

/-- CMP: the flags of SUB, no register written (40_arith_logic.md R117). -/
def execCmp (rd rs : RegNum) (s : State) : Result :=
  let a := s.readReg rd
  let b := s.readReg rs
  let res := a - b
  .next ((s.setFlagsFreeC res (subOverflow a b res)).advance)

/-- MOV (40_arith_logic.md R118). -/
def execMov (rd rs : RegNum) (s : State) : Result :=
  let res := s.readReg rs
  .next (((s.writeReg rd res).setFlagsClearC res).advance)

/-- ADDI: `x[Rd] <- x[Rs] + sext_16(d4)` (40_arith_logic.md R119). -/
def execAddi (rd rs : RegNum) (d : BitVec 4) (s : State) : Result :=
  let a := s.readReg (immSource params.srcSel rd rs)
  let b := sext4 d
  let res := a + b
  .next (((s.writeReg rd res).setFlagsFreeC res (addOverflow a b res)).advance)

end Sys2Proof.Machine
end

