-- ==== Sys2Proof/Machine/Branch.lean ====
section
/-! DEFINITION. LI and the branches: 44_li_branch.md R160, R161, 45_cond_branch.md R170 to R174. -/

namespace Sys2Proof.Machine

/-- LI: `x[Rb] <- sext_16(d8)`; no flag is written (44_li_branch.md R160). -/
def execLi (rb : RegNum) (d : BitVec 8) (s : State) : Result :=
  .next ((s.writeReg rb (sext8 d)).advance)

/-- B: `pc <- pc + 1 + sext_16(d8)` (44_li_branch.md R161). -/
def execB (d : BitVec 8) (s : State) : Result := .next (s.jump (s.branchTarget d))

/-- What the four conditional branches share: to the target when `taken`, else to the next instruction (45_cond_branch.md R170). -/
def branchWhen (taken : Bool) (d : BitVec 8) (s : State) : Result :=
  .next (if taken then s.jump (s.branchTarget d) else s.advance)

/-- BE (45_cond_branch.md R171). -/
def execBe (d : BitVec 8) (s : State) : Result := branchWhen (condEqual s.flags) d s

/-- BLT (45_cond_branch.md R172). -/
def execBlt (d : BitVec 8) (s : State) : Result := branchWhen (condLess s.flags) d s

/-- BLE (45_cond_branch.md R173). -/
def execBle (d : BitVec 8) (s : State) : Result := branchWhen (condLessEqual s.flags) d s

/-- BNE (45_cond_branch.md R174). -/
def execBne (d : BitVec 8) (s : State) : Result := branchWhen (condNotEqual s.flags) d s

end Sys2Proof.Machine
end

