-- ==== Sys2Proof/Machine/Io.lean ====
section
/-! DEFINITION. IN, OUT, HALT: 42_io_halt.md R140 to R142. -/

namespace Sys2Proof.Machine

/-- IN: the switch word of this step goes to `x[Rd]`; no flag is written (42_io_halt.md R140). -/
def execIn (rd : RegNum) (s : State) : Result :=
  .next ((s.switchesSeen.writeReg rd (switchWord s.currentSwitches)).advance)

/-- OUT: `Out(x[Rs])`; no flag and no register is written (42_io_halt.md R141). -/
def execOut (rs : RegNum) (s : State) : Result :=
  .next ((s.output (s.readReg rs)).advance)

/-- HALT: `halted <- 1`, `pc` stays (42_io_halt.md R142). -/
def execHalt (s : State) : Result := .next s.halt

end Sys2Proof.Machine
end

