-- ==== Sys2Proof/Machine/LoadStore.lean ====
section
/-! DEFINITION. LD and ST: 43_load_store.md R150 to R152. -/

namespace Sys2Proof.Machine

/-- LD: `x[Ra] <- DMem[ea]`; no flag is written (43_load_store.md R151). -/
def execLd (ra rb : RegNum) (d : BitVec 8) (s : State) : Result :=
  match s.memRead (s.effAddr rb d) with
  | .error r => .refused r
  | .ok v => .next ((s.writeReg ra v).advance)

/-- ST: `DMem[ea] <- x[Ra]`; no flag and no register is written (43_load_store.md R152). -/
def execSt (ra rb : RegNum) (d : BitVec 8) (s : State) : Result :=
  match s.memWrite (s.effAddr rb d) (s.readReg ra) with
  | .error r => .refused r
  | .ok t => .next t.advance

end Sys2Proof.Machine
end

