-- ==== Sys2Proof/Machine/Shift.lean ====
section
/-! DEFINITION. SLL, SLR, SRL, SRA: 41_shift.md R130 to R135. -/

namespace Sys2Proof.Machine

/-- What the four shifts share: `x[Rd] <- res`, the flags of R135, `pc + 1` (41_shift.md R130). -/
def finishShift (rd : RegNum) (res : Word) (s : State) : Result :=
  .next (((s.writeReg rd res).setFlagsFreeC res params.shiftV).advance)

/-- SLL (41_shift.md R131). -/
def execSll (rd rs : RegNum) (n : Nat) (s : State) : Result :=
  finishShift rd (shiftLeftLogical (s.readReg (immSource params.srcSel rd rs)) n) s

/-- SLR (41_shift.md R132). -/
def execSlr (rd rs : RegNum) (n : Nat) (s : State) : Result :=
  finishShift rd (rotateLeft (s.readReg (immSource params.srcSel rd rs)) n) s

/-- SRL (41_shift.md R133). -/
def execSrl (rd rs : RegNum) (n : Nat) (s : State) : Result :=
  finishShift rd (shiftRightLogical (s.readReg (immSource params.srcSel rd rs)) n) s

/-- SRA (41_shift.md R134). -/
def execSra (rd rs : RegNum) (n : Nat) (s : State) : Result :=
  finishShift rd (shiftRightArith (s.readReg (immSource params.srcSel rd rs)) n) s

end Sys2Proof.Machine
end

