-- ==== Sys2Proof/Machine/Dispatch.lean ====
section
/-! DEFINITION. The meaning of every instruction, one arm for each constructor. -/

namespace Sys2Proof.Machine

def exec (i : Instr) (s : State) : Host.Outcome State Fault Refusal :=
  match i with
  | .add rd rs => Sys2Proof.Machine.execAdd rd rs s
  | .sub rd rs => Sys2Proof.Machine.execSub rd rs s
  | .and rd rs => Sys2Proof.Machine.execAnd rd rs s
  | .or rd rs => Sys2Proof.Machine.execOr rd rs s
  | .xor rd rs => Sys2Proof.Machine.execXor rd rs s
  | .cmp rd rs => Sys2Proof.Machine.execCmp rd rs s
  | .mov rd rs => Sys2Proof.Machine.execMov rd rs s
  | .addi rd rs d => Sys2Proof.Machine.execAddi rd rs d s
  | .sll rd rs n => Sys2Proof.Machine.execSll rd rs n s
  | .slr rd rs n => Sys2Proof.Machine.execSlr rd rs n s
  | .srl rd rs n => Sys2Proof.Machine.execSrl rd rs n s
  | .sra rd rs n => Sys2Proof.Machine.execSra rd rs n s
  | .inp rd => Sys2Proof.Machine.execIn rd s
  | .out rs => Sys2Proof.Machine.execOut rs s
  | .halt => Sys2Proof.Machine.execHalt s
  | .ld ra rb d => Sys2Proof.Machine.execLd ra rb d s
  | .st ra rb d => Sys2Proof.Machine.execSt ra rb d s
  | .li rb d => Sys2Proof.Machine.execLi rb d s
  | .b d => Sys2Proof.Machine.execB d s
  | .be d => Sys2Proof.Machine.execBe d s
  | .blt d => Sys2Proof.Machine.execBlt d s
  | .ble d => Sys2Proof.Machine.execBle d s
  | .bne d => Sys2Proof.Machine.execBne d s

end Sys2Proof.Machine
end

