-- ==== Sys2Proof/Machine/Step.lean ====
section
/-! DEFINITION. One step (10_state.md R25), and where the next instruction is placed for it. -/

namespace Sys2Proof.Machine

/-- One step: a halted machine has none; else fetch, decode and run one instruction (10_state.md R25, 60_exceptions.md R183). -/
def step (s : State) : Host.Outcome State Fault Refusal :=
  if s.halted then .fault .halted
  else
    match s.fetchInstr with
    | .error r => .refused r
    | .ok i => exec i s

/-- `s` with the word `w` in the instruction memory where `step` fetches next, and running, as a launch leaves the halted bit
(10_state.md R37): the stand-in for the download that fills the instruction memory (20_memory.md R59). Log entry 22. -/
def State.withFetchWord (s : State) (nbits w : Nat) : State :=
  { s with imem := s.imem.write s.pc.toNat (BitVec.ofNat 16 (w % 2 ^ nbits)), halted := false }

end Sys2Proof.Machine
end

