-- ==== Sys2Proof/Machine/Launch.lean ====
section
/-! DEFINITION. What the person at the board can do (70_reset_and_hazards.md R200, R208): start a launch, set the switches, read the display. -/

namespace Sys2Proof.Machine

/-- The start of a launch: the state after reset with the words of `mem1.mif` and `mem2.mif` in the two memories and the switch
settings the launch names (10_state.md R39, 20_memory.md R59). A word the lists do not reach is 0, log entry 4. -/
def State.launch (prog data : List Word) (settings : List Switches) : State :=
  { State.reset with
    imem := Memory.ofWordsFrom 0 (prog.take Config.imemWords)
    dmem := Memory.ofWordsFrom 0 (data.take Config.dmemWords)
    inputs := settings }

/-- The person sets the switches: the next IN instructions see `settings` (10_state.md R35). -/
def State.setSwitches (s : State) (settings : List Switches) : State := { s with inputs := settings }

/-- The four hexadecimal digits of a word, most significant first (42_io_halt.md R141). -/
def hexDigits (v : Word) : List (BitVec 4) :=
  [v.extractLsb' 12 4, v.extractLsb' 8 4, v.extractLsb' 4 4, v.extractLsb' 0 4]

/-- What the display shows: nothing the spec states before the first OUT, then the latch (10_state.md R36, R39). -/
def State.display (s : State) : Option (List (BitVec 4)) :=
  match s.outTrace with
  | [] => none
  | _ :: _ => some (hexDigits s.out)

end Sys2Proof.Machine
end

