-- ==== Sys2Proof/Safety.lean ====
section
/-! DEFINITION. What counts as an admitted step, a final state and a consistent state, in the terms claims use (60_exceptions.md R181, R183; 70_reset_and_hazards.md R207; 10_state.md R22, R27, R28). -/

namespace Sys2Proof

open Machine

/-- The general registers an instruction reads, the field at bits 13:11 before the field at bits 10:8 (10_state.md R22, 60_exceptions.md R183). -/
def Instr.regsRead : Instr → List RegNum
  | .add rd rs => [rs, rd]
  | .sub rd rs => [rs, rd]
  | .and rd rs => [rs, rd]
  | .or rd rs => [rs, rd]
  | .xor rd rs => [rs, rd]
  | .cmp rd rs => [rs, rd]
  | .mov _ rs => [rs]
  | .addi rd rs _ => [immSource params.srcSel rd rs]
  | .sll rd rs _ => [immSource params.srcSel rd rs]
  | .slr rd rs _ => [immSource params.srcSel rd rs]
  | .srl rd rs _ => [immSource params.srcSel rd rs]
  | .sra rd rs _ => [immSource params.srcSel rd rs]
  | .inp _ => []
  | .out rs => [rs]
  | .halt => []
  | .ld _ rb _ => [rb]
  | .st ra rb _ => [ra, rb]
  | .li _ _ => []
  | .b _ => []
  | .be _ => []
  | .blt _ => []
  | .ble _ => []
  | .bne _ => []

/-- The general register an instruction writes (10_state.md R22). -/
def Instr.regWritten : Instr → Option RegNum
  | .add rd _ => some rd
  | .sub rd _ => some rd
  | .and rd _ => some rd
  | .or rd _ => some rd
  | .xor rd _ => some rd
  | .cmp _ _ => none
  | .mov rd _ => some rd
  | .addi rd _ _ => some rd
  | .sll rd _ _ => some rd
  | .slr rd _ _ => some rd
  | .srl rd _ _ => some rd
  | .sra rd _ _ => some rd
  | .inp rd => some rd
  | .out _ => none
  | .halt => none
  | .ld ra _ _ => some ra
  | .st _ _ _ => none
  | .li rb _ => some rb
  | .b _ => none
  | .be _ => none
  | .blt _ => none
  | .ble _ => none
  | .bne _ => none

/-- The twelve instructions that write S, Z and V (10_state.md R27). -/
def Instr.writesFlags : Instr → Bool
  | .add _ _ => true
  | .sub _ _ => true
  | .and _ _ => true
  | .or _ _ => true
  | .xor _ _ => true
  | .cmp _ _ => true
  | .mov _ _ => true
  | .addi _ _ _ => true
  | .sll _ _ _ => true
  | .slr _ _ _ => true
  | .srl _ _ _ => true
  | .sra _ _ _ => true
  | .inp _ => false
  | .out _ => false
  | .halt => false
  | .ld _ _ _ => false
  | .st _ _ _ => false
  | .li _ _ => false
  | .b _ => false
  | .be _ => false
  | .blt _ => false
  | .ble _ => false
  | .bne _ => false

/-- The four instructions that read condition codes (10_state.md R28). -/
def Instr.readsFlags : Instr → Bool
  | .be _ => true
  | .blt _ => true
  | .ble _ => true
  | .bne _ => true
  | .add _ _ => false
  | .sub _ _ => false
  | .and _ _ => false
  | .or _ _ => false
  | .xor _ _ => false
  | .cmp _ _ => false
  | .mov _ _ => false
  | .addi _ _ _ => false
  | .sll _ _ _ => false
  | .slr _ _ _ => false
  | .srl _ _ _ => false
  | .sra _ _ _ => false
  | .inp _ => false
  | .out _ => false
  | .halt => false
  | .ld _ _ _ => false
  | .st _ _ _ => false
  | .li _ _ => false
  | .b _ => false

/-- The data address an instruction uses in state `s` (43_load_store.md R150). -/
def Instr.dataAddr (i : Instr) (s : State) : Option Word :=
  match i with
  | .ld _ rb d => some (s.effAddr rb d)
  | .st _ rb d => some (s.effAddr rb d)
  | .add _ _ => none
  | .sub _ _ => none
  | .and _ _ => none
  | .or _ _ => none
  | .xor _ _ => none
  | .cmp _ _ => none
  | .mov _ _ => none
  | .addi _ _ _ => none
  | .sll _ _ _ => none
  | .slr _ _ _ => none
  | .srl _ _ _ => none
  | .sra _ _ _ => none
  | .inp _ => none
  | .out _ => none
  | .halt => none
  | .li _ _ => none
  | .b _ => none
  | .be _ => none
  | .blt _ => none
  | .ble _ => none
  | .bne _ => none

/-- The closed list of the spec's refusals (60_exceptions.md R181). The two unwritten reads do not stop this model's step: log entries 1, 2. -/
inductive SpecRefusal where
  | fetchOutOfRange
  | reservedEncoding
  | contestedEncoding
  | unwrittenRegisterRead
  | unwrittenFlagRead
  | dataAddressOutOfRange
  deriving DecidableEq, Repr

/-- Whether the instruction reads a register nothing has written (60_exceptions.md R181). -/
def Instr.readsUnwritten (i : Instr) (s : State) : Bool := i.regsRead.any fun r => !s.regWritten r

/-- Whether the instruction's data address names no word of the data memory (20_memory.md R56). -/
def Instr.dataOutOfRange (i : Instr) (s : State) : Bool :=
  match i.dataAddr s with
  | none => false
  | some ea => decide (Config.dmemWords ≤ ea.toNat)

/-- Parts (3) and (4) of the order of 60_exceptions.md R183, for a decoded instruction. -/
def Instr.specRefusal (i : Instr) (s : State) : Option SpecRefusal :=
  match i.readsUnwritten s, i.readsFlags && !s.flagsWritten, i.dataOutOfRange s with
  | true, _, _ => some .unwrittenRegisterRead
  | false, true, _ => some .unwrittenFlagRead
  | false, false, true => some .dataAddressOutOfRange
  | false, false, false => none

/-- The reason the spec refuses the next step of a running machine, the first in the order of 60_exceptions.md R183. -/
def Machine.State.specRefusal (s : State) : Option SpecRefusal :=
  match s.fetch with
  | .error _ => some .fetchOutOfRange
  | .ok w =>
    match decode w with
    | .error .reserved => some .reservedEncoding
    | .error .contested => some .contestedEncoding
    | .ok i => i.specRefusal s

/-- The machine runs and the spec refuses nothing: the step is admitted (60_exceptions.md R181). -/
def Machine.State.admitted (s : State) : Bool := !s.halted && decide (s.specRefusal = none)

/-- The run has ended (70_reset_and_hazards.md R207). -/
def Machine.State.final (s : State) : Bool := s.halted

/-- What holds of the machine in every state of a run: both memories are canonical; S and Z are not both 1, since both come from one
result (10_state.md R26); the latch holds the last word of the trace (10_state.md R36); and a halted machine stands at a HALT
(42_io_halt.md R142). -/
structure Machine.State.Consistent (s : State) : Prop where
  imem_wf : s.imem.wf Config.imemWords = true
  dmem_wf : s.dmem.wf Config.dmemWords = true
  sign_zero : (s.flags.s && s.flags.z) = false
  latch : ∀ v, s.outTrace.getLast? = some v → s.out = v
  halted_at_halt : s.halted = true → s.fetchInstr = .ok .halt

/-- Two states that differ at most in what the spec gives no value: registers and condition codes that nothing has written, C, and the
latch before the first OUT (10_state.md R29, R39). -/
structure Machine.State.AgreeOnWritten (s t : State) : Prop where
  pc : s.pc = t.pc
  imem : s.imem = t.imem
  dmem : s.dmem = t.dmem
  outTrace : s.outTrace = t.outTrace
  halted : s.halted = t.halted
  inputs : s.inputs = t.inputs
  regsWritten : s.regsWritten = t.regsWritten
  flagsWritten : s.flagsWritten = t.flagsWritten
  draws : s.draws = t.draws
  regs : ∀ r, s.regWritten r = true → s.readReg r = t.readReg r
  sign : s.flagsWritten = true → s.flags.s = t.flags.s
  zero : s.flagsWritten = true → s.flags.z = t.flags.z
  overflow : s.flagsWritten = true → s.flags.v = t.flags.v
  latch : s.outTrace ≠ [] → s.out = t.out

end Sys2Proof
end

