-- ==== Sys2Proof/Certificates/Slice0/Obligations.lean ====
section
/-! DEFINITION. The statements for the provers, from the numbered rules of spec/. -/

namespace Sys2Proof.Claims

open Sys2Proof.Machine

/-- S and Z of `t` are those of the 16-bit result `res`, V is `v`, and a flag writer has run (40_arith_logic.md R111). -/
def CodesOf (t : State) (res : Word) (v : Bool) : Prop :=
  t.flags.s = res.getLsbD 15 ∧ (t.flags.z = true ↔ res = 0#16) ∧ t.flags.v = v ∧ t.flagsWritten = true

/-- V of `a + b`, the bit formula of 40_arith_logic.md R111. -/
def additionV (a b : Word) : Bool := (a.getLsbD 15 == b.getLsbD 15) && ((a + b).getLsbD 15 != a.getLsbD 15)

/-- V of `a - b`, the bit formula of 40_arith_logic.md R111. -/
def subtractionV (a b : Word) : Bool := (a.getLsbD 15 != b.getLsbD 15) && ((a - b).getLsbD 15 != a.getLsbD 15)

/-- The spec refuses an instruction exactly when one of the registers it reads is unwritten (60_exceptions.md R181). -/
def RefusedUnlessWritten (i : Instr) (s : State) (written : Bool) : Prop :=
  i.specRefusal s = if written then none else some .unwrittenRegisterRead

/-- Register `r` and its bookkeeping are unchanged. -/
def RegSame (s t : State) (r : RegNum) : Prop := t.readReg r = s.readReg r ∧ t.regWritten r = s.regWritten r

/-- S, Z and V are unchanged, and their bookkeeping (10_state.md R27). -/
def CodesSame (s t : State) : Prop :=
  t.flags.s = s.flags.s ∧ t.flags.z = s.flags.z ∧ t.flags.v = s.flags.v ∧ t.flagsWritten = s.flagsWritten

/-- All four condition codes are unchanged, and their bookkeeping. For C this is the model's reading, log entry 9. -/
def AllCodesSame (s t : State) : Prop := t.flags = s.flags ∧ t.flagsWritten = s.flagsWritten

/-- Every word of the data memory reads as before. -/
def DataSame (s t : State) : Prop := ∀ a : Nat, t.dmem.read a = s.dmem.read a

/-- The instruction memory, the halted bit and the launch's switch settings are unchanged. -/
def LaunchSame (s t : State) : Prop := t.imem = s.imem ∧ t.halted = s.halted ∧ t.inputs = s.inputs

/-- The output latch and trace are unchanged. -/
def OutputSame (s t : State) : Prop := t.out = s.out ∧ t.outTrace = s.outTrace

/-- The address after this instruction when `taken` decides the branch (45_cond_branch.md R170). -/
def branchTo (s : State) (taken : Bool) (d8 : BitVec 8) : Word :=
  if taken then s.pc + 1#16 + d8.signExtend 16 else s.pc + 1#16

end Sys2Proof.Claims

open Sys2Proof Sys2Proof.Machine Sys2Proof.Claims

/-! ## Encoding -/

/-- 30_encoding.md R82 to R88: every well-formed instruction is read back from its word, with every operand at every value. -/
def Obligations.DecodeOfEncode : Prop :=
  ∀ i : Instr, i.wf = true → decode (encode i) = .ok i

/-- 30_encoding.md R86, R88: the decoder yields only well-formed instructions, so encoding what it yields and decoding again
changes nothing. -/
def Obligations.DecodedIsWellFormed : Prop :=
  ∀ (w : Word) (i : Instr), decode w = .ok i → i.wf = true ∧ decode (encode i) = decode w

/-- 30_encoding.md R89, R90, with R91: each row's mask and match select its instruction, with the fields at bits 13:11, 10:8, 7:0 and
3:0, and the rows without a mnemonic select exactly the refused words. -/
def Obligations.MaskTableSelectsInstruction : Prop :=
  ∀ w : Word,
    let f11 : RegNum := ⟨w.toNat / 2048 % 8, Nat.mod_lt _ (by decide)⟩
    let f8 : RegNum := ⟨w.toNat / 256 % 8, Nat.mod_lt _ (by decide)⟩
    let d4 : BitVec 4 := BitVec.ofNat 4 w.toNat
    let d8 : BitVec 8 := BitVec.ofNat 8 w.toNat
    (w &&& 0xC0F0#16 = 0xC000#16 ↔ decode w = .ok (.add f8 f11))
    ∧ (w &&& 0xC0F0#16 = 0xC010#16 ↔ decode w = .ok (.sub f8 f11))
    ∧ (w &&& 0xC0F0#16 = 0xC020#16 ↔ decode w = .ok (.and f8 f11))
    ∧ (w &&& 0xC0F0#16 = 0xC030#16 ↔ decode w = .ok (.or f8 f11))
    ∧ (w &&& 0xC0F0#16 = 0xC040#16 ↔ decode w = .ok (.xor f8 f11))
    ∧ (w &&& 0xC0F0#16 = 0xC050#16 ↔ decode w = .ok (.cmp f8 f11))
    ∧ (w &&& 0xC0F0#16 = 0xC060#16 ↔ decode w = .ok (.mov f8 f11))
    ∧ (w &&& 0xC0F0#16 = 0xC070#16 ↔ decode w = .ok (.addi f8 f11 d4))
    ∧ (w &&& 0xC0F0#16 = 0xC080#16 ↔ decode w = .ok (.sll f8 f11 d4.toNat))
    ∧ (w &&& 0xC0F0#16 = 0xC090#16 ↔ decode w = .ok (.slr f8 f11 d4.toNat))
    ∧ (w &&& 0xC0F0#16 = 0xC0A0#16 ↔ decode w = .ok (.srl f8 f11 d4.toNat))
    ∧ (w &&& 0xC0F0#16 = 0xC0B0#16 ↔ decode w = .ok (.sra f8 f11 d4.toNat))
    ∧ (w &&& 0xC0F0#16 = 0xC0C0#16 ↔ decode w = .ok (.inp f8))
    ∧ (w &&& 0xC0F0#16 = 0xC0D0#16 ↔ decode w = .ok (.out f11))
    ∧ (w &&& 0xC0F0#16 = 0xC0F0#16 ↔ decode w = .ok .halt)
    ∧ (w &&& 0xC000#16 = 0x0000#16 ↔ decode w = .ok (.ld f11 f8 d8))
    ∧ (w &&& 0xC000#16 = 0x4000#16 ↔ decode w = .ok (.st f11 f8 d8))
    ∧ (w &&& 0xF800#16 = 0x8000#16 ↔ decode w = .ok (.li f8 d8))
    ∧ (w &&& 0xF800#16 = 0xA000#16 ↔ decode w = .ok (.b d8))
    ∧ (w &&& 0xFF00#16 = 0xB800#16 ↔ decode w = .ok (.be d8))
    ∧ (w &&& 0xFF00#16 = 0xB900#16 ↔ decode w = .ok (.blt d8))
    ∧ (w &&& 0xFF00#16 = 0xBA00#16 ↔ decode w = .ok (.ble d8))
    ∧ (w &&& 0xFF00#16 = 0xBB00#16 ↔ decode w = .ok (.bne d8))
    ∧ (w &&& 0xC0F0#16 = 0xC0E0#16
        ∨ w &&& 0xF800#16 ∈ [0x8800#16, 0x9000#16, 0x9800#16, 0xA800#16, 0xB000#16]
        ∨ w &&& 0xFF00#16 ∈ [0xBC00#16, 0xBD00#16, 0xBE00#16] ↔ decode w = .error .reserved)
    ∧ (w &&& 0xFF00#16 = 0xBF00#16 ↔ decode w = .error .contested)

/-- 30_encoding.md R88, R93: the reserved words are exactly the classes (a), (b), (c), the contested ones exactly the class (d), and every
other word decodes. -/
def Obligations.UndefinedWordsAreTheFourClasses : Prop :=
  ∀ w : Word,
    let classA := w &&& 0xC0F0#16 = 0xC0E0#16
    let op2 := w.extractLsb' 11 3
    let classB := w &&& 0xC000#16 = 0x8000#16 ∧ op2 ∈ [0b001#3, 0b010#3, 0b011#3, 0b101#3, 0b110#3]
    let classC := 0xBC00 ≤ w.toNat ∧ w.toNat ≤ 0xBEFF
    let classD := 0xBF00 ≤ w.toNat ∧ w.toNat ≤ 0xBFFF
    (decode w = .error .reserved ↔ classA ∨ classB ∨ classC)
    ∧ (decode w = .error .contested ↔ classD)
    ∧ ((∃ i, decode w = .ok i) ↔ ¬ (classA ∨ classB ∨ classC ∨ classD))

/-- 45_cond_branch.md R175: `cond` 100, 101, 110 are refused as reserved and 111 as contested, by the decoder and so by the step; and
under the other value of BNE_COND, 111 is BNE and 011 is the contested value. -/
def Obligations.OtherCondValuesAreRefused : Prop :=
  (∀ (d8 : BitVec 8) (s : State), s.halted = false → s.pc.toNat < 4096 →
    (∀ c ∈ [0b100#3, 0b101#3, 0b110#3], s.imem.read s.pc.toNat = formatI 0b111#3 c d8 → step s = .refused .reservedEncoding)
    ∧ (s.imem.read s.pc.toNat = formatI 0b111#3 0b111#3 d8 → step s = .refused .contestedEncoding))
  ∧ (∀ (p : Config.Params) (d8 : BitVec 8), p.bneCond = 0b111#3 →
    decodeWith p (formatI 0b111#3 0b111#3 d8) = .ok (.bne d8)
    ∧ decodeWith p (formatI 0b111#3 0b011#3 d8) = .error .contested)

/-- 30_encoding.md R92: an instruction's unused fields may hold any value, and MOV, ADDI and the shifts do not read the old value of
Rd. -/
def Obligations.UnusedFieldsAreIgnored : Prop :=
  ∀ (rs rd rs' rd' : RegNum) (d d' : BitVec 4) (f f' : BitVec 3) (d8 : BitVec 8) (s : State) (v : Word),
    (∀ op3 ∈ [0b0000#4, 0b0001#4, 0b0010#4, 0b0011#4, 0b0100#4, 0b0101#4, 0b0110#4],
      decode (formatR rs rd op3 d) = decode (formatR rs rd op3 d'))
    ∧ decode (formatR rs rd 0b1100#4 d) = decode (formatR rs' rd 0b1100#4 d')
    ∧ decode (formatR rs rd 0b1101#4 d) = decode (formatR rs rd' 0b1101#4 d')
    ∧ decode (formatR rs rd 0b1111#4 d) = decode (formatR rs' rd' 0b1111#4 d')
    ∧ decode (formatI 0b100#3 f d8) = decode (formatI 0b100#3 f' d8)
    ∧ (s.regWritten rs = true → rd ≠ rs →
      ∀ i ∈ [.mov rd rs, .addi rd rs d, .sll rd rs d.toNat, .slr rd rs d.toNat, .srl rd rs d.toNat, .sra rd rs d.toNat],
        ∃ t u, exec i s = .next t ∧ exec i (s.writeReg rd v) = .next u
          ∧ u.readReg rd = t.readReg rd ∧ CodesSame t u ∧ u.pc = t.pc)

/-- A few words written out from the format figures of 30_encoding.md R82 to R85 decode to what they stand for. -/
def Obligations.SampleWordsDecode : Prop :=
  decode 0b1100000011110000#16 = .ok .halt
  ∧ decode 0b1101101001111000#16 = .ok (.addi 2 3 0b1000#4)
  ∧ decode 0b1101101010100100#16 = .ok (.srl 2 3 4)
  ∧ decode 0b0101010110101010#16 = .ok (.st 2 5 0xAA#8)
  ∧ decode 0b1000000100001010#16 = .ok (.li 1 10#8)
  ∧ decode 0b1010011111111111#16 = .ok (.b 0xFF#8)
  ∧ decode 0b1011101111111101#16 = .ok (.bne 0xFD#8)

/-! ## The step -/

/-- 10_state.md R25: the step function, in its four parts, and none when halted. -/
def Obligations.StepFunction : Prop :=
  ∀ s : State,
    (s.halted = true → step s = .fault .halted)
    ∧ (s.halted = false →
      (4096 ≤ s.pc.toNat → step s = .refused .fetchOutOfRange)
      ∧ (s.pc.toNat < 4096 →
        (decode (s.imem.read s.pc.toNat) = .error .reserved → step s = .refused .reservedEncoding)
        ∧ (decode (s.imem.read s.pc.toNat) = .error .contested → step s = .refused .contestedEncoding)
        ∧ (∀ i, decode (s.imem.read s.pc.toNat) = .ok i → step s = exec i s)))

/-- A step runs the decoded instruction: the word at `pc` decodes to a well-formed instruction, and step is exec of it (10_state.md R25). -/
def Obligations.StepRunsDecodedInstruction : Prop :=
  ∀ (s : State) (i : Instr), s.halted = false → s.pc.toNat < 4096 → i.wf = true →
    decode (s.imem.read s.pc.toNat) = .ok i → step s = exec i s

/-- A word placed where the step fetches is the instruction the step runs; the rest of the state is as it was, but that the machine
runs. The placing is the model's own, log entry 22. -/
def Obligations.PlacedWordIsRun : Prop :=
  ∀ (s : State) (w : Word) (i : Instr), s.pc.toNat < 4096 → decode w = .ok i →
    step (s.withFetchWord 16 w.toNat) = exec i (s.withFetchWord 16 w.toNat)
    ∧ (∀ a : Nat, a ≠ s.pc.toNat → (s.withFetchWord 16 w.toNat).imem.read a = s.imem.read a)
    ∧ s.withFetchWord 16 w.toNat = { s with imem := (s.withFetchWord 16 w.toNat).imem, halted := false }

/-- 60_exceptions.md R181, R183: a running machine stops for the spec's first reason when that is a fetch, an encoding or a data
address; it completes when the spec refuses nothing; it never faults. MODEL'S CHOICE (log entries 1, 2): where the spec's reason is an
unwritten read, the step completes or stops at the data address. -/
def Obligations.RunningStepStopsOnlyAsSpecified : Prop :=
  ∀ s : State, s.halted = false →
    (step s = .refused .fetchOutOfRange ↔ s.specRefusal = some .fetchOutOfRange)
    ∧ (step s = .refused .reservedEncoding ↔ s.specRefusal = some .reservedEncoding)
    ∧ (step s = .refused .contestedEncoding ↔ s.specRefusal = some .contestedEncoding)
    ∧ (s.specRefusal = some .dataAddressOutOfRange → step s = .refused .dataAddressOutOfRange)
    ∧ (s.specRefusal = none → ∃ t, step s = .next t)
    ∧ (s.specRefusal = some .unwrittenFlagRead → ∃ t, step s = .next t)
    ∧ (s.specRefusal = some .unwrittenRegisterRead → (∃ t, step s = .next t) ∨ step s = .refused .dataAddressOutOfRange)
    ∧ (∀ f, step s ≠ .fault f)

/-- MODEL'S CHOICE (log entries 1, 2): every instruction completes in every state whose data address, if it has one, is in range; the
registers and condition codes it reads need not have been written. -/
def Obligations.EveryInstructionCompletes : Prop :=
  ∀ (i : Instr) (s : State), i.dataOutOfRange s = false → ∃ t, exec i s = .next t

/-! ## The start of a launch -/

/-- The start of a launch that supplies all 4096 words of each memory, after 10_state.md R39. MODEL'S CHOICE: that the display shows
nothing before the first OUT (log entry 5), and that a read of an unwritten register or condition code is refused in `specRefusal` and
does not stop `step` (log entries 1, 2). -/
def Obligations.LaunchStartsAsSpecified : Prop :=
  ∀ (prog data : List Word) (settings : List Switches), prog.length = 4096 → data.length = 4096 →
    let s := State.launch prog data settings
    s.pc = 1#16 ∧ s.halted = false ∧ s.outTrace = [] ∧ s.display = none
    ∧ (∀ r, s.regWritten r = false) ∧ s.flagsWritten = false
    ∧ (∀ (a : Nat) (h : a < prog.length), s.imem.read a = prog[a])
    ∧ (∀ (a : Nat) (h : a < data.length), s.dmem.read a = data[a])
    ∧ (∀ i : Instr, i.regsRead ≠ [] → i.specRefusal s = some .unwrittenRegisterRead)
    ∧ (∀ i : Instr, i.readsFlags = true → i.specRefusal s = some .unwrittenFlagRead)

/-- A launch starts the machine in a consistent state, whatever it loads: at most 4096 words of each list are taken. MODEL'S CHOICE: that
S and Z are not both 1 at the start rests on the reset values of log entry 2. -/
def Obligations.LaunchIsConsistent : Prop :=
  ∀ (prog data : List Word) (settings : List Switches), (State.launch prog data settings).Consistent

/-- The state after reset is consistent, and the values it gives what the spec leaves open are the model's (log entries 1 to 5). -/
def Obligations.ResetIsConsistent : Prop := State.reset.Consistent

/-! ## Arithmetic, logic, compare, move, add immediate -/

/-- 40_arith_logic.md R112. -/
def Obligations.AddResult : Prop :=
  ∀ (rd rs : RegNum) (d4 : BitVec 4) (s : State),
    decode (formatR rs rd 0b0000#4 d4) = .ok (.add rd rs)
    ∧ RefusedUnlessWritten (.add rd rs) s (s.regWritten rs && s.regWritten rd)
    ∧ (s.regWritten rs = true → s.regWritten rd = true →
      ∃ t, exec (.add rd rs) s = .next t
        ∧ t.readReg rd = s.readReg rd + s.readReg rs
        ∧ CodesOf t (s.readReg rd + s.readReg rs) (additionV (s.readReg rd) (s.readReg rs))
        ∧ t.pc = s.pc + 1#16)

/-- 40_arith_logic.md R113. -/
def Obligations.SubResult : Prop :=
  ∀ (rd rs : RegNum) (d4 : BitVec 4) (s : State),
    decode (formatR rs rd 0b0001#4 d4) = .ok (.sub rd rs)
    ∧ RefusedUnlessWritten (.sub rd rs) s (s.regWritten rs && s.regWritten rd)
    ∧ (s.regWritten rs = true → s.regWritten rd = true →
      ∃ t, exec (.sub rd rs) s = .next t
        ∧ t.readReg rd = s.readReg rd - s.readReg rs
        ∧ CodesOf t (s.readReg rd - s.readReg rs) (subtractionV (s.readReg rd) (s.readReg rs))
        ∧ t.pc = s.pc + 1#16)

/-- 40_arith_logic.md R114. -/
def Obligations.AndResult : Prop :=
  ∀ (rd rs : RegNum) (d4 : BitVec 4) (s : State),
    decode (formatR rs rd 0b0010#4 d4) = .ok (.and rd rs)
    ∧ RefusedUnlessWritten (.and rd rs) s (s.regWritten rs && s.regWritten rd)
    ∧ (s.regWritten rs = true → s.regWritten rd = true →
      ∃ t, exec (.and rd rs) s = .next t
        ∧ (∀ k < 16, (t.readReg rd).getLsbD k = ((s.readReg rd).getLsbD k && (s.readReg rs).getLsbD k))
        ∧ CodesOf t (t.readReg rd) false ∧ t.flags.c = false
        ∧ t.pc = s.pc + 1#16)

/-- 40_arith_logic.md R115. -/
def Obligations.OrResult : Prop :=
  ∀ (rd rs : RegNum) (d4 : BitVec 4) (s : State),
    decode (formatR rs rd 0b0011#4 d4) = .ok (.or rd rs)
    ∧ RefusedUnlessWritten (.or rd rs) s (s.regWritten rs && s.regWritten rd)
    ∧ (s.regWritten rs = true → s.regWritten rd = true →
      ∃ t, exec (.or rd rs) s = .next t
        ∧ (∀ k < 16, (t.readReg rd).getLsbD k = ((s.readReg rd).getLsbD k || (s.readReg rs).getLsbD k))
        ∧ CodesOf t (t.readReg rd) false ∧ t.flags.c = false
        ∧ t.pc = s.pc + 1#16)

/-- 40_arith_logic.md R116. -/
def Obligations.XorResult : Prop :=
  ∀ (rd rs : RegNum) (d4 : BitVec 4) (s : State),
    decode (formatR rs rd 0b0100#4 d4) = .ok (.xor rd rs)
    ∧ RefusedUnlessWritten (.xor rd rs) s (s.regWritten rs && s.regWritten rd)
    ∧ (s.regWritten rs = true → s.regWritten rd = true →
      ∃ t, exec (.xor rd rs) s = .next t
        ∧ (∀ k < 16, (t.readReg rd).getLsbD k = ((s.readReg rd).getLsbD k != (s.readReg rs).getLsbD k))
        ∧ CodesOf t (t.readReg rd) false ∧ t.flags.c = false
        ∧ t.pc = s.pc + 1#16)

/-- 40_arith_logic.md R117: no register is written, and S xor V is the signed comparison for all operand pairs. -/
def Obligations.CmpResult : Prop :=
  ∀ (rd rs : RegNum) (d4 : BitVec 4) (s : State),
    decode (formatR rs rd 0b0101#4 d4) = .ok (.cmp rd rs)
    ∧ RefusedUnlessWritten (.cmp rd rs) s (s.regWritten rs && s.regWritten rd)
    ∧ (s.regWritten rs = true → s.regWritten rd = true →
      ∃ t, exec (.cmp rd rs) s = .next t
        ∧ (∀ r, RegSame s t r)
        ∧ CodesOf t (s.readReg rd - s.readReg rs) (subtractionV (s.readReg rd) (s.readReg rs))
        ∧ (t.flags.z = true ↔ s.readReg rd = s.readReg rs)
        ∧ ((t.flags.s ^^ t.flags.v) = true ↔ (s.readReg rd).toInt < (s.readReg rs).toInt)
        ∧ t.pc = s.pc + 1#16)

/-- 40_arith_logic.md R118: only Rs is read. -/
def Obligations.MovResult : Prop :=
  ∀ (rd rs : RegNum) (d4 : BitVec 4) (s : State),
    decode (formatR rs rd 0b0110#4 d4) = .ok (.mov rd rs)
    ∧ RefusedUnlessWritten (.mov rd rs) s (s.regWritten rs)
    ∧ (s.regWritten rs = true →
      ∃ t, exec (.mov rd rs) s = .next t
        ∧ t.readReg rd = s.readReg rs ∧ t.readReg rs = s.readReg rs
        ∧ CodesOf t (s.readReg rs) false ∧ t.flags.c = false
        ∧ t.pc = s.pc + 1#16)

/-- 40_arith_logic.md R119, with the spec's SRC_SEL = Rs. -/
def Obligations.AddiResult : Prop :=
  ∀ (rd rs : RegNum) (d4 : BitVec 4) (s : State),
    decode (formatR rs rd 0b0111#4 d4) = .ok (.addi rd rs d4)
    ∧ RefusedUnlessWritten (.addi rd rs d4) s (s.regWritten rs)
    ∧ (s.regWritten rs = true →
      ∃ t, exec (.addi rd rs d4) s = .next t
        ∧ t.readReg rd = s.readReg rs + d4.signExtend 16
        ∧ CodesOf t (s.readReg rs + d4.signExtend 16) (additionV (s.readReg rs) (d4.signExtend 16))
        ∧ (rd ≠ rs → t.readReg rs = s.readReg rs)
        ∧ t.pc = s.pc + 1#16)

/-- 40_arith_logic.md R111: S and Z from the 16-bit result; V of an addition (ADD, ADDI) and of a subtraction (SUB, CMP) by the bit
formulas, which say that the exact integer result is out of range; every other flag writer gives V = 0. -/
def Obligations.FlagFunctions : Prop :=
  ∀ (i : Instr) (s t : State), i.readsUnwritten s = false → exec i s = .next t →
    (∀ rd, i.writesFlags = true → i.regWritten = some rd →
      t.flags.s = (t.readReg rd).getLsbD 15 ∧ (t.flags.z = true ↔ t.readReg rd = 0#16))
    ∧ (∀ rd rs, i = .cmp rd rs →
      t.flags.s = (s.readReg rd - s.readReg rs).getLsbD 15 ∧ (t.flags.z = true ↔ s.readReg rd - s.readReg rs = 0#16))
    ∧ (∀ rd rs d4 (a b : Word),
      (i = .add rd rs ∧ a = s.readReg rd ∧ b = s.readReg rs) ∨ (i = .addi rd rs d4 ∧ a = s.readReg rs ∧ b = d4.signExtend 16) →
      t.flags.v = additionV a b ∧ (t.flags.v = true ↔ a.toInt + b.toInt < -32768 ∨ 32767 < a.toInt + b.toInt))
    ∧ (∀ rd rs (a b : Word), i = .sub rd rs ∨ i = .cmp rd rs → a = s.readReg rd → b = s.readReg rs →
      t.flags.v = subtractionV a b ∧ (t.flags.v = true ↔ a.toInt - b.toInt < -32768 ∨ 32767 < a.toInt - b.toInt))
    ∧ (∀ rd rs n, i ∈ [.and rd rs, .or rd rs, .xor rd rs, .mov rd rs, .sll rd rs n, .slr rd rs n, .srl rd rs n, .sra rd rs n] →
      t.flags.v = false)

/-- 40_arith_logic.md R120: ADD, SUB and ADDI store the exact result reduced modulo 2^16 into -32768..32767; overflow neither stops
them nor saturates nor holds back the write; the 16 bits are the same when the operands are read as unsigned; V = 1 alone reports that the stored number is not the exact one. -/
def Obligations.ArithmeticWraps : Prop :=
  ∀ (rd rs : RegNum) (d4 : BitVec 4) (s : State), s.regWritten rs = true →
    (s.regWritten rd = true →
      let exact := (s.readReg rd).toInt + (s.readReg rs).toInt
      ∃ t, exec (.add rd rs) s = .next t ∧ (t.readReg rd).toInt = exact.bmod 65536
        ∧ ((t.readReg rd).toNat : Int) = ((s.readReg rd).toNat + (s.readReg rs).toNat) % 65536
        ∧ (t.flags.v = true ↔ (t.readReg rd).toInt ≠ exact))
    ∧ (s.regWritten rd = true →
      let exact := (s.readReg rd).toInt - (s.readReg rs).toInt
      ∃ t, exec (.sub rd rs) s = .next t ∧ (t.readReg rd).toInt = exact.bmod 65536
        ∧ ((t.readReg rd).toNat : Int) = ((s.readReg rd).toNat - (s.readReg rs).toNat) % 65536
        ∧ (t.flags.v = true ↔ (t.readReg rd).toInt ≠ exact))
    ∧ (let exact := (s.readReg rs).toInt + d4.toInt
      ∃ t, exec (.addi rd rs d4) s = .next t ∧ (t.readReg rd).toInt = exact.bmod 65536
        ∧ (t.flags.v = true ↔ (t.readReg rd).toInt ≠ exact))

/-! ## Shifts -/

/-- 41_shift.md R131, with V by R135. -/
def Obligations.SllResult : Prop :=
  ∀ (rd rs : RegNum) (d4 : BitVec 4) (s : State),
    decode (formatR rs rd 0b1000#4 d4) = .ok (.sll rd rs d4.toNat)
    ∧ RefusedUnlessWritten (.sll rd rs d4.toNat) s (s.regWritten rs)
    ∧ (s.regWritten rs = true →
      ∃ t, exec (.sll rd rs d4.toNat) s = .next t
        ∧ (∀ k < 16, (t.readReg rd).getLsbD k = if k < d4.toNat then false else (s.readReg rs).getLsbD (k - d4.toNat))
        ∧ CodesOf t (t.readReg rd) false
        ∧ t.pc = s.pc + 1#16)

/-- 41_shift.md R132: `res[i] = src[(i - n) mod 16]`. -/
def Obligations.SlrResult : Prop :=
  ∀ (rd rs : RegNum) (d4 : BitVec 4) (s : State),
    decode (formatR rs rd 0b1001#4 d4) = .ok (.slr rd rs d4.toNat)
    ∧ RefusedUnlessWritten (.slr rd rs d4.toNat) s (s.regWritten rs)
    ∧ (s.regWritten rs = true →
      ∃ t, exec (.slr rd rs d4.toNat) s = .next t
        ∧ (∀ k < 16, (t.readReg rd).getLsbD k = (s.readReg rs).getLsbD ((k + 16 - d4.toNat) % 16))
        ∧ (t.readReg rd = 0#16 ↔ s.readReg rs = 0#16)
        ∧ CodesOf t (t.readReg rd) false
        ∧ t.pc = s.pc + 1#16)

/-- 41_shift.md R133: `res = floor(unsigned(src) / 2^n)`. -/
def Obligations.SrlResult : Prop :=
  ∀ (rd rs : RegNum) (d4 : BitVec 4) (s : State),
    decode (formatR rs rd 0b1010#4 d4) = .ok (.srl rd rs d4.toNat)
    ∧ RefusedUnlessWritten (.srl rd rs d4.toNat) s (s.regWritten rs)
    ∧ (s.regWritten rs = true →
      ∃ t, exec (.srl rd rs d4.toNat) s = .next t
        ∧ (∀ k < 16, (t.readReg rd).getLsbD k =
            if k ≤ 15 - d4.toNat then (s.readReg rs).getLsbD (k + d4.toNat) else false)
        ∧ (t.readReg rd).toNat = (s.readReg rs).toNat / 2 ^ d4.toNat
        ∧ CodesOf t (t.readReg rd) false
        ∧ t.pc = s.pc + 1#16)

/-- 41_shift.md R134: `signed(res) = floor(signed(src) / 2^n)` and S stays the sign bit. -/
def Obligations.SraResult : Prop :=
  ∀ (rd rs : RegNum) (d4 : BitVec 4) (s : State),
    decode (formatR rs rd 0b1011#4 d4) = .ok (.sra rd rs d4.toNat)
    ∧ RefusedUnlessWritten (.sra rd rs d4.toNat) s (s.regWritten rs)
    ∧ (s.regWritten rs = true →
      ∃ t, exec (.sra rd rs d4.toNat) s = .next t
        ∧ (∀ k < 16, (t.readReg rd).getLsbD k =
            if k ≤ 15 - d4.toNat then (s.readReg rs).getLsbD (k + d4.toNat) else (s.readReg rs).getLsbD 15)
        ∧ (t.readReg rd).toInt = (s.readReg rs).toInt.fdiv (2 ^ d4.toNat)
        ∧ CodesOf t (t.readReg rd) false ∧ t.flags.s = (s.readReg rs).getLsbD 15
        ∧ t.pc = s.pc + 1#16)

/-! ## Input, output, halt -/

/-- 42_io_halt.md R140: Rd takes the switch word, the upper bank on top; no flag changes; every one of the 65536 values can come; it is
never refused. -/
def Obligations.InResult : Prop :=
  ∀ (rs rd : RegNum) (d4 : BitVec 4) (s : State),
    decode (formatR rs rd 0b1100#4 d4) = .ok (.inp rd)
    ∧ (Instr.inp rd).specRefusal s = none
    ∧ (∃ t, exec (.inp rd) s = .next t ∧ CodesSame s t ∧ t.pc = s.pc + 1#16)
    ∧ (∀ (sw : Switches) (rest : List Switches), s.inputs = sw :: rest →
      ∃ t, exec (.inp rd) s = .next t ∧ t.inputs = rest
        ∧ (t.readReg rd).toNat = sw.upper.toNat * 256 + sw.lower.toNat)
    ∧ (∀ v : Word, ∃ (sw : Switches) (t : State), exec (.inp rd) (s.setSwitches [sw]) = .next t ∧ t.readReg rd = v)

/-- 42_io_halt.md R141: the latch takes x[Rs], the trace grows by it, and the display reads its four hexadecimal digits, most
significant first. -/
def Obligations.OutResult : Prop :=
  ∀ (rs rd : RegNum) (d4 : BitVec 4) (s : State),
    decode (formatR rs rd 0b1101#4 d4) = .ok (.out rs)
    ∧ RefusedUnlessWritten (.out rs) s (s.regWritten rs)
    ∧ (s.regWritten rs = true →
      let v := s.readReg rs
      ∃ t, exec (.out rs) s = .next t
        ∧ t.out = v ∧ t.outTrace = s.outTrace ++ [v]
        ∧ t.display.map (List.map BitVec.toNat) = some [v.toNat / 4096, v.toNat / 256 % 16, v.toNat / 16 % 16, v.toNat % 16]
        ∧ CodesSame s t ∧ (∀ r, RegSame s t r) ∧ t.pc = s.pc + 1#16)

/-- 42_io_halt.md R142: `halted` becomes 1 and nothing else changes; the machine then has no further step; it is never refused. -/
def Obligations.HaltResult : Prop :=
  ∀ (rs rd : RegNum) (d4 : BitVec 4) (s : State),
    decode (formatR rs rd 0b1111#4 d4) = .ok .halt
    ∧ Instr.halt.specRefusal s = none
    ∧ ∃ t, exec .halt s = .next t ∧ t = { s with halted := true } ∧ step t = .fault .halted

/-! ## Load and store -/

/-- 43_load_store.md R151. -/
def Obligations.LoadResult : Prop :=
  ∀ (ra rb : RegNum) (d8 : BitVec 8) (s : State),
    let ea := s.readReg rb + d8.signExtend 16
    decode (formatM 0b00#2 ra rb d8) = .ok (.ld ra rb d8)
    ∧ (Instr.ld ra rb d8).specRefusal s =
      (if s.regWritten rb = false then some .unwrittenRegisterRead
       else if 4096 ≤ ea.toNat then some .dataAddressOutOfRange else none)
    ∧ (s.regWritten rb = true → 4096 ≤ ea.toNat → exec (.ld ra rb d8) s = .refused .dataAddressOutOfRange)
    ∧ (s.regWritten rb = true → ea.toNat < 4096 →
      ∃ t, exec (.ld ra rb d8) s = .next t
        ∧ t.readReg ra = s.dmem.read ea.toNat ∧ CodesSame s t ∧ t.pc = s.pc + 1#16)

/-- 43_load_store.md R152: both registers are read before the address is checked; one word of the data memory changes. -/
def Obligations.StoreResult : Prop :=
  ∀ (ra rb : RegNum) (d8 : BitVec 8) (s : State),
    let ea := s.readReg rb + d8.signExtend 16
    decode (formatM 0b01#2 ra rb d8) = .ok (.st ra rb d8)
    ∧ (Instr.st ra rb d8).specRefusal s =
      (if s.regWritten ra = false ∨ s.regWritten rb = false then some .unwrittenRegisterRead
       else if 4096 ≤ ea.toNat then some .dataAddressOutOfRange else none)
    ∧ (s.regWritten ra = true → s.regWritten rb = true → 4096 ≤ ea.toNat →
      exec (.st ra rb d8) s = .refused .dataAddressOutOfRange)
    ∧ (s.regWritten ra = true → s.regWritten rb = true → ea.toNat < 4096 →
      ∃ t, exec (.st ra rb d8) s = .next t
        ∧ t.dmem.read ea.toNat = s.readReg ra
        ∧ (∀ a : Nat, a ≠ ea.toNat → t.dmem.read a = s.dmem.read a)
        ∧ CodesSame s t ∧ (∀ r, RegSame s t r) ∧ t.imem = s.imem ∧ t.pc = s.pc + 1#16)

/-- 20_memory.md R56: the effective address is the sum modulo 2^16 with the displacement signed; at 4096 and above LD and ST are
refused, below they complete. -/
def Obligations.EffectiveAddressRange : Prop :=
  ∀ (ra rb : RegNum) (d8 : BitVec 8) (s : State) (i : Instr), i = .ld ra rb d8 ∨ i = .st ra rb d8 →
    i.readsUnwritten s = false →
    let ea : Int := ((s.readReg rb).toNat + d8.toInt) % 65536
    ((s.effAddr rb d8).toNat : Int) = ea
    ∧ (4096 ≤ ea → exec i s = .refused .dataAddressOutOfRange)
    ∧ (ea < 4096 → ∃ t, exec i s = .next t)

/-- 20_memory.md R57: the primitives of the data memory. -/
def Obligations.DataMemoryPrimitives : Prop :=
  ∀ (s : State) (addr v : Word),
    (4096 ≤ addr.toNat → s.memRead addr = .error .dataAddressOutOfRange ∧ s.memWrite addr v = .error .dataAddressOutOfRange)
    ∧ (addr.toNat < 4096 → s.memRead addr = .ok (s.dmem.read addr.toNat)
      ∧ ∃ t, s.memWrite addr v = .ok t ∧ t.memRead addr = .ok v
        ∧ (∀ a : Word, a ≠ addr → t.memRead a = s.memRead a)
        ∧ t = { s with dmem := t.dmem })

/-- 20_memory.md R61 (b), (c): an ST is visible to an LD that follows at once, and hides nothing at other addresses. -/
def Obligations.LoadSeesLastStore : Prop :=
  ∀ (ra rb rc re : RegNum) (d8 e8 : BitVec 8) (s t u : State),
    exec (.st ra rb d8) s = .next t → exec (.ld rc re e8) t = .next u →
    u.readReg rc = if t.effAddr re e8 = s.effAddr rb d8 then s.readReg ra else s.dmem.read (t.effAddr re e8).toNat

/-- Two memories in canonical form that read alike at every address are equal data (log entry 21). -/
def Obligations.CanonicalMemoriesAreEqualData : Prop :=
  ∀ (n : Nat) (m k : Memory), m.wf n = true → k.wf n = true → (∀ a < n, m.read a = k.read a) → m = k

/-! ## Load immediate and branches -/

/-- 44_li_branch.md R160. -/
def Obligations.LiResult : Prop :=
  ∀ (rb : RegNum) (d8 : BitVec 8) (s : State),
    decode (formatI 0b000#3 (BitVec.ofFin rb) d8) = .ok (.li rb d8)
    ∧ (Instr.li rb d8).specRefusal s = none
    ∧ ∃ t, exec (.li rb d8) s = .next t
      ∧ (t.readReg rb).toInt = d8.toInt ∧ t.readReg rb = d8.signExtend 16
      ∧ CodesSame s t ∧ t.regWritten rb = true ∧ t.pc = s.pc + 1#16

/-- 44_li_branch.md R161: only `pc` changes; a target at 4096 or above is refused at the next step. -/
def Obligations.BranchResult : Prop :=
  ∀ (f : BitVec 3) (d8 : BitVec 8) (s : State),
    decode (formatI 0b100#3 f d8) = .ok (.b d8)
    ∧ (Instr.b d8).specRefusal s = none
    ∧ ∃ t, exec (.b d8) s = .next t
      ∧ t = { s with pc := branchTo s true d8 }
      ∧ (t.pc.toNat : Int) = (s.pc.toNat + 1 + d8.toInt) % 65536
      ∧ (s.halted = false → 4096 ≤ t.pc.toNat → step t = .refused .fetchOutOfRange)

/-- 45_cond_branch.md R171: taken when Z = 1. -/
def Obligations.BeResult : Prop :=
  ∀ (d8 : BitVec 8) (s : State),
    decode (formatI 0b111#3 0b000#3 d8) = .ok (.be d8)
    ∧ (Instr.be d8).specRefusal s = (if s.flagsWritten then none else some .unwrittenFlagRead)
    ∧ (s.flagsWritten = true →
      ∃ t, exec (.be d8) s = .next t ∧ t = { s with pc := branchTo s (s.flags.z == true) d8 })

/-- 45_cond_branch.md R172: taken when S xor V = 1. -/
def Obligations.BltResult : Prop :=
  ∀ (d8 : BitVec 8) (s : State),
    decode (formatI 0b111#3 0b001#3 d8) = .ok (.blt d8)
    ∧ (Instr.blt d8).specRefusal s = (if s.flagsWritten then none else some .unwrittenFlagRead)
    ∧ (s.flagsWritten = true →
      ∃ t, exec (.blt d8) s = .next t ∧ t = { s with pc := branchTo s (s.flags.s != s.flags.v) d8 })

/-- 45_cond_branch.md R173: taken when Z = 1 or S xor V = 1. -/
def Obligations.BleResult : Prop :=
  ∀ (d8 : BitVec 8) (s : State),
    decode (formatI 0b111#3 0b010#3 d8) = .ok (.ble d8)
    ∧ (Instr.ble d8).specRefusal s = (if s.flagsWritten then none else some .unwrittenFlagRead)
    ∧ (s.flagsWritten = true →
      ∃ t, exec (.ble d8) s = .next t ∧ t = { s with pc := branchTo s (s.flags.z || s.flags.s != s.flags.v) d8 })

/-- 45_cond_branch.md R174: taken when Z = 0; `cond` is 011 (BNE_COND). -/
def Obligations.BneResult : Prop :=
  ∀ (d8 : BitVec 8) (s : State),
    decode (formatI 0b111#3 0b011#3 d8) = .ok (.bne d8)
    ∧ (Instr.bne d8).specRefusal s = (if s.flagsWritten then none else some .unwrittenFlagRead)
    ∧ (s.flagsWritten = true →
      ∃ t, exec (.bne d8) s = .next t ∧ t = { s with pc := branchTo s (s.flags.z == false) d8 })

/-- 45_cond_branch.md R176: while the condition codes are those CMP or SUB left, the four branches compare its operands as signed
integers, also when the difference overflowed; while they are those of a flag writer with V = 0, BLT tests for a negative and BLE for
a negative or zero result; after an ADD, SUB or ADDI that overflowed, S xor V is the opposite of the sign bit of the stored result. -/
def Obligations.BranchesAfterCompare : Prop :=
  (∀ (rd rs : RegNum) (d8 : BitVec 8) (s t u : State), s.regWritten rd = true → s.regWritten rs = true →
    exec (.cmp rd rs) s = .next t ∨ exec (.sub rd rs) s = .next t → CodesSame t u →
    let a := (s.readReg rd).toInt
    let b := (s.readReg rs).toInt
    exec (.be d8) u = .next { u with pc := branchTo u (decide (a = b)) d8 }
    ∧ exec (.bne d8) u = .next { u with pc := branchTo u (decide (a ≠ b)) d8 }
    ∧ exec (.blt d8) u = .next { u with pc := branchTo u (decide (a < b)) d8 }
    ∧ exec (.ble d8) u = .next { u with pc := branchTo u (decide (a ≤ b)) d8 })
  ∧ (∀ (i : Instr) (rd : RegNum) (d8 : BitVec 8) (s t u : State), i.writesFlags = true → i.regWritten = some rd →
    i.readsUnwritten s = false → exec i s = .next t → t.flags.v = false → CodesSame t u →
    exec (.blt d8) u = .next { u with pc := branchTo u (decide ((t.readReg rd).toInt < 0)) d8 }
    ∧ exec (.ble d8) u = .next { u with pc := branchTo u (decide ((t.readReg rd).toInt ≤ 0)) d8 })
  ∧ (∀ (rd rs : RegNum) (d4 : BitVec 4) (s t : State) (i : Instr), i ∈ [.add rd rs, .sub rd rs, .addi rd rs d4] →
    i.readsUnwritten s = false → exec i s = .next t → t.flags.v = true →
    (t.flags.s ^^ t.flags.v) = !(t.readReg rd).getLsbD 15)

/-- 10_state.md R24: how every instruction leaves `pc`. -/
def Obligations.AdvanceOfPc : Prop :=
  ∀ (i : Instr) (s t : State), exec i s = .next t →
    t.pc = (match i with
      | .b d => branchTo s true d
      | .be d => branchTo s s.flags.z d
      | .blt d => branchTo s (s.flags.s ^^ s.flags.v) d
      | .ble d => branchTo s (s.flags.z || (s.flags.s ^^ s.flags.v)) d
      | .bne d => branchTo s (!s.flags.z) d
      | .halt => s.pc
      | _ => s.pc + 1#16)
    ∧ (i = .halt → t.halted = true)

/-! ## Frames -/

/-- ADD, SUB, AND, OR, XOR, MOV, ADDI, SLL, SLR, SRL, SRA: every register but Rd, every word of data memory, the output, the halted bit
and the launch are unchanged. -/
def Obligations.OperationFrame : Prop :=
  ∀ (rd rs : RegNum) (d4 : BitVec 4) (n : Nat) (i : Instr) (s t : State),
    i ∈ [.add rd rs, .sub rd rs, .and rd rs, .or rd rs, .xor rd rs, .mov rd rs, .addi rd rs d4,
      .sll rd rs n, .slr rd rs n, .srl rd rs n, .sra rd rs n] →
    exec i s = .next t →
    (∀ r, r ≠ rd → RegSame s t r) ∧ DataSame s t ∧ OutputSame s t ∧ LaunchSame s t

/-- CMP: every register, every word of data memory, the output and the launch are unchanged. -/
def Obligations.CompareFrame : Prop :=
  ∀ (rd rs : RegNum) (s t : State), exec (.cmp rd rs) s = .next t →
    (∀ r, RegSame s t r) ∧ DataSame s t ∧ OutputSame s t ∧ LaunchSame s t

/-- LD and LI: every register but the destination, every condition code, every word of data memory, the output and the launch are
unchanged. IN likewise, but that it uses up a switch setting. -/
def Obligations.LoadAndInputFrame : Prop :=
  ∀ (r0 rb : RegNum) (d8 : BitVec 8) (i : Instr) (s t : State), i ∈ [.ld r0 rb d8, .li r0 d8, .inp r0] →
    exec i s = .next t →
    (∀ r, r ≠ r0 → RegSame s t r) ∧ AllCodesSame s t ∧ DataSame s t ∧ OutputSame s t
    ∧ t.imem = s.imem ∧ t.halted = s.halted ∧ (i ≠ .inp r0 → t.inputs = s.inputs)

/-- ST: every register, every condition code, the output, the launch, and every word of data memory but the one at the effective
address are unchanged. -/
def Obligations.StoreFrame : Prop :=
  ∀ (ra rb : RegNum) (d8 : BitVec 8) (s t : State) (ea : Word), exec (.st ra rb d8) s = .next t → s.effAddr rb d8 = ea →
    (∀ r, RegSame s t r) ∧ AllCodesSame s t ∧ OutputSame s t ∧ LaunchSame s t
    ∧ (∀ a : Nat, a ≠ ea.toNat → t.dmem.read a = s.dmem.read a)

/-- OUT, HALT, B, BE, BLT, BLE, BNE: every register, every condition code, every word of data memory, the instruction memory and the
switch settings are unchanged; the output but for OUT; the halted bit but for HALT. -/
def Obligations.OutputHaltBranchFrame : Prop :=
  ∀ (rs : RegNum) (d8 : BitVec 8) (i : Instr) (s t : State),
    i ∈ [.out rs, .halt, .b d8, .be d8, .blt d8, .ble d8, .bne d8] → exec i s = .next t →
    (∀ r, RegSame s t r) ∧ AllCodesSame s t ∧ DataSame s t ∧ t.imem = s.imem ∧ t.inputs = s.inputs
    ∧ (i ≠ .out rs → OutputSame s t) ∧ (i ≠ .halt → t.halted = s.halted)

/-! ## The whole machine -/

/-- 10_state.md R20, the column "written by": what changed tells which instruction the step ran. -/
def Obligations.ChangeNamesItsInstruction : Prop :=
  ∀ (s t : State), step s = .next t → ∃ i, s.fetchInstr = .ok i
    ∧ (∀ r, t.readReg r ≠ s.readReg r → i.regWritten = some r)
    ∧ (t.flags ≠ s.flags → i.writesFlags = true)
    ∧ (t.dmem ≠ s.dmem → ∃ ra rb d, i = .st ra rb d)
    ∧ (t.out ≠ s.out ∨ t.outTrace ≠ s.outTrace → ∃ rs, i = .out rs)
    ∧ (t.halted ≠ s.halted → i = .halt)

/-- What nothing has written is recorded exactly: a step marks as written the register and the condition codes its instruction writes
(10_state.md R22, R27, R39), and nothing else. -/
def Obligations.WritesAreRecorded : Prop :=
  ∀ (i : Instr) (s t : State), exec i s = .next t →
    (∀ r, t.regWritten r = (s.regWritten r || decide (i.regWritten = some r)))
    ∧ t.flagsWritten = (s.flagsWritten || i.writesFlags)

/-- 10_state.md R30: S, Z and V keep their values over any number of steps in which none of the twelve flag writers of R27 runs. -/
def Obligations.FlagsPersist : Prop :=
  ∀ (k : Nat) (s t : State), core.run k s = .next t →
    (∀ (j : Nat) (u : State) (i : Instr), j < k → core.run j s = .next u → u.fetchInstr = .ok i → i.writesFlags = false) →
    CodesSame s t

/-- 20_memory.md R64: the instruction memory is the same after any number of steps. -/
def Obligations.InstructionMemoryNeverChanges : Prop :=
  ∀ (k : Nat) (s t : State), core.run k s = .next t → t.imem = s.imem

/-- 70_reset_and_hazards.md R207: a run has ended exactly when a HALT has executed; `pc` is then the address of that HALT, and there is
no further step. -/
def Obligations.HaltEndsTheRun : Prop :=
  ∀ s t : State, step s = .next t →
    (t.final = true ↔ s.fetchInstr = .ok .halt) ∧ (t.final = true → t.pc = s.pc ∧ ∀ u, step t ≠ .next u)

/-- Every step keeps the machine consistent: both memories canonical, S and Z not both 1, the latch the last word of the trace, a halted
machine at a HALT. -/
def Obligations.StepKeepsConsistent : Prop :=
  ∀ s t : State, s.Consistent → step s = .next t → t.Consistent

/-- Two machines that differ at most in what the spec gives no value (registers, condition codes and latch that nothing has written, C)
stay so over any admitted step: what the model chose at reset (log entries 1, 2, 3, 5) cannot be seen by an admitted run. -/
def Obligations.ResetChoicesUnobservable : Prop :=
  ∀ s t s' : State, s.AgreeOnWritten t → s.admitted = true → step s = .next s' →
    ∃ t', step t = .next t' ∧ s'.AgreeOnWritten t'
end

