-- ==== Sys2Proof/Laws/Decode.lean ====
section
/-! SUPPORT. The fields of an encoded word, what the decoder makes of each format, and the fields of a word under a mask. -/

namespace Sys2Proof

/-! Fields of formatR. -/

@[simp] theorem opField_formatR (rs rd : RegNum) (op3 d4 : BitVec 4) : opField (formatR rs rd op3 d4) = 0b11#2 := by
  apply BitVec.eq_of_getLsbD_eq
  intro i hi
  simp only [opField, formatR, BitVec.getLsbD_extractLsb', BitVec.getLsbD_append]
  interval_cases i <;> simp

@[simp] theorem sourceField_formatR (rs rd : RegNum) (op3 d4 : BitVec 4) : sourceField (formatR rs rd op3 d4) = BitVec.ofFin rs := by
  apply BitVec.eq_of_getLsbD_eq
  intro i hi
  simp only [sourceField, formatR, BitVec.getLsbD_extractLsb', BitVec.getLsbD_append]
  interval_cases i <;> simp

@[simp] theorem destField_formatR (rs rd : RegNum) (op3 d4 : BitVec 4) : destField (formatR rs rd op3 d4) = BitVec.ofFin rd := by
  apply BitVec.eq_of_getLsbD_eq
  intro i hi
  simp only [destField, formatR, BitVec.getLsbD_extractLsb', BitVec.getLsbD_append]
  interval_cases i <;> simp

@[simp] theorem functionField_formatR (rs rd : RegNum) (op3 d4 : BitVec 4) : functionField (formatR rs rd op3 d4) = op3 := by
  apply BitVec.eq_of_getLsbD_eq
  intro i hi
  simp only [functionField, formatR, BitVec.getLsbD_extractLsb', BitVec.getLsbD_append]
  interval_cases i <;> simp

@[simp] theorem d4Field_formatR (rs rd : RegNum) (op3 d4 : BitVec 4) : d4Field (formatR rs rd op3 d4) = d4 := by
  apply BitVec.eq_of_getLsbD_eq
  intro i hi
  simp only [d4Field, formatR, BitVec.getLsbD_extractLsb', BitVec.getLsbD_append]
  interval_cases i <;> simp

/-! Fields of formatM. -/

@[simp] theorem opField_formatM (op1 : BitVec 2) (ra rb : RegNum) (d8 : BitVec 8) : opField (formatM op1 ra rb d8) = op1 := by
  apply BitVec.eq_of_getLsbD_eq
  intro i hi
  simp only [opField, formatM, BitVec.getLsbD_extractLsb', BitVec.getLsbD_append]
  interval_cases i <;> simp

@[simp] theorem sourceField_formatM (op1 : BitVec 2) (ra rb : RegNum) (d8 : BitVec 8) : sourceField (formatM op1 ra rb d8) = BitVec.ofFin ra := by
  apply BitVec.eq_of_getLsbD_eq
  intro i hi
  simp only [sourceField, formatM, BitVec.getLsbD_extractLsb', BitVec.getLsbD_append]
  interval_cases i <;> simp

@[simp] theorem destField_formatM (op1 : BitVec 2) (ra rb : RegNum) (d8 : BitVec 8) : destField (formatM op1 ra rb d8) = BitVec.ofFin rb := by
  apply BitVec.eq_of_getLsbD_eq
  intro i hi
  simp only [destField, formatM, BitVec.getLsbD_extractLsb', BitVec.getLsbD_append]
  interval_cases i <;> simp

@[simp] theorem d8Field_formatM (op1 : BitVec 2) (ra rb : RegNum) (d8 : BitVec 8) : d8Field (formatM op1 ra rb d8) = d8 := by
  apply BitVec.eq_of_getLsbD_eq
  intro i hi
  simp only [d8Field, formatM, BitVec.getLsbD_extractLsb', BitVec.getLsbD_append]
  interval_cases i <;> simp

/-! Fields of formatI. -/

@[simp] theorem opField_formatI (op2 field : BitVec 3) (d8 : BitVec 8) : opField (formatI op2 field d8) = 0b10#2 := by
  apply BitVec.eq_of_getLsbD_eq
  intro i hi
  simp only [opField, formatI, BitVec.getLsbD_extractLsb', BitVec.getLsbD_append]
  interval_cases i <;> simp

@[simp] theorem sourceField_formatI (op2 field : BitVec 3) (d8 : BitVec 8) : sourceField (formatI op2 field d8) = op2 := by
  apply BitVec.eq_of_getLsbD_eq
  intro i hi
  simp only [sourceField, formatI, BitVec.getLsbD_extractLsb', BitVec.getLsbD_append]
  interval_cases i <;> simp

@[simp] theorem destField_formatI (op2 field : BitVec 3) (d8 : BitVec 8) : destField (formatI op2 field d8) = field := by
  apply BitVec.eq_of_getLsbD_eq
  intro i hi
  simp only [destField, formatI, BitVec.getLsbD_extractLsb', BitVec.getLsbD_append]
  interval_cases i <;> simp

@[simp] theorem d8Field_formatI (op2 field : BitVec 3) (d8 : BitVec 8) : d8Field (formatI op2 field d8) = d8 := by
  apply BitVec.eq_of_getLsbD_eq
  intro i hi
  simp only [d8Field, formatI, BitVec.getLsbD_extractLsb', BitVec.getLsbD_append]
  interval_cases i <;> simp

/-! The decoder on each format (30_encoding.md R88). -/

@[simp] theorem decodeWith_formatR (p : Config.Params) (rs rd : RegNum) (op3 d4 : BitVec 4) :
    decodeWith p (formatR rs rd op3 d4) = decodeFormatR rs rd op3 d4 := by
  simp [decodeWith]

@[simp] theorem decodeWith_load (p : Config.Params) (ra rb : RegNum) (d8 : BitVec 8) :
    decodeWith p (formatM 0b00#2 ra rb d8) = .ok (.ld ra rb d8) := by
  simp [decodeWith]

@[simp] theorem decodeWith_store (p : Config.Params) (ra rb : RegNum) (d8 : BitVec 8) :
    decodeWith p (formatM 0b01#2 ra rb d8) = .ok (.st ra rb d8) := by
  simp [decodeWith]

@[simp] theorem decodeWith_formatI (p : Config.Params) (op2 field : BitVec 3) (d8 : BitVec 8) :
    decodeWith p (formatI op2 field d8) = decodeFormatI p op2 field d8 := by
  simp [decodeWith]

/-! The opcode fields of a word that matches a row of the tables R89 to R91. -/

/-- The mask of format R shows op1 and op3. -/
theorem fields_of_formatR_mask {w m : Word} (h : w &&& 0xC0F0#16 = m) :
    opField w = opField m ∧ functionField w = functionField m := by
  subst h
  constructor <;>
  · apply BitVec.eq_of_getLsbD_eq
    intro i hi
    simp only [opField, functionField, BitVec.getLsbD_extractLsb', BitVec.getLsbD_and]
    interval_cases i <;> simp

/-- The mask of format M shows op1. -/
theorem field_of_formatM_mask {w m : Word} (h : w &&& 0xC000#16 = m) : opField w = opField m := by
  subst h
  apply BitVec.eq_of_getLsbD_eq
  intro i hi
  simp only [opField, BitVec.getLsbD_extractLsb', BitVec.getLsbD_and]
  interval_cases i <;> simp

/-- The mask of format I shows op1 and op2. -/
theorem fields_of_formatI_mask {w m : Word} (h : w &&& 0xF800#16 = m) :
    opField w = opField m ∧ sourceField w = sourceField m := by
  subst h
  constructor <;>
  · apply BitVec.eq_of_getLsbD_eq
    intro i hi
    simp only [opField, sourceField, BitVec.getLsbD_extractLsb', BitVec.getLsbD_and]
    interval_cases i <;> simp

/-- The mask of format C shows op1, op2 and cond. -/
theorem fields_of_formatC_mask {w m : Word} (h : w &&& 0xFF00#16 = m) :
    opField w = opField m ∧ sourceField w = sourceField m ∧ destField w = destField m := by
  subst h
  refine ⟨?_, ?_, ?_⟩ <;>
  · apply BitVec.eq_of_getLsbD_eq
    intro i hi
    simp only [opField, sourceField, destField, BitVec.getLsbD_extractLsb', BitVec.getLsbD_and]
    interval_cases i <;> simp

/-- Every word is the format R of its fields, or the format M or I of them, by its op1. -/
theorem word_eq_formatR {w : Word} (h : opField w = 0b11#2) :
    w = formatR (sourceField w).toFin (destField w).toFin (functionField w) (d4Field w) := by
  apply BitVec.eq_of_getLsbD_eq
  intro i hi
  have h14 := congrArg (fun v => v.getLsbD 0) h
  have h15 := congrArg (fun v => v.getLsbD 1) h
  simp only [opField, BitVec.getLsbD_extractLsb'] at h14 h15
  simp only [formatR, sourceField, destField, functionField, d4Field, BitVec.getLsbD_append, BitVec.ofFin_toFin,
    BitVec.getLsbD_extractLsb']
  interval_cases i <;> simp_all

theorem word_eq_formatM (w : Word) :
    w = formatM (opField w) (sourceField w).toFin (destField w).toFin (d8Field w) := by
  apply BitVec.eq_of_getLsbD_eq
  intro i hi
  simp only [formatM, opField, sourceField, destField, d8Field, BitVec.getLsbD_append, BitVec.ofFin_toFin,
    BitVec.getLsbD_extractLsb']
  interval_cases i <;> simp

theorem word_eq_formatI {w : Word} (h : opField w = 0b10#2) :
    w = formatI (sourceField w) (destField w) (d8Field w) := by
  apply BitVec.eq_of_getLsbD_eq
  intro i hi
  have h14 := congrArg (fun v => v.getLsbD 0) h
  have h15 := congrArg (fun v => v.getLsbD 1) h
  simp only [opField, BitVec.getLsbD_extractLsb'] at h14 h15
  simp only [formatI, sourceField, destField, d8Field, BitVec.getLsbD_append, BitVec.getLsbD_extractLsb']
  interval_cases i <;> simp_all

end Sys2Proof
end

