-- ==== Sys2Proof/Laws/Memory.lean ====
section
/-! SUPPORT. The laws of the memories: what a write does to every read, and that every operation keeps the canonical form. -/

namespace Sys2Proof.Machine

/-! Reads after writes; these hold of every list, canonical or not. -/

theorem Memory.read_without_same (m : Memory) (k : Nat) : (m.without k).read k = Memory.unlisted := by
  induction m with
  | nil => rfl
  | cons p m ih =>
    obtain ⟨a, x⟩ := p
    by_cases h : a = k
    · simpa [Memory.without, h] using ih
    · have h' : ¬ k = a := fun e => h e.symm
      simpa [Memory.without, Memory.read, h, h'] using ih

theorem Memory.read_without_ne (m : Memory) {k j : Nat} (hj : j ≠ k) : (m.without k).read j = m.read j := by
  induction m with
  | nil => rfl
  | cons p m ih =>
    obtain ⟨a, x⟩ := p
    by_cases h : a = k
    · have h' : ¬ j = a := fun e => hj (e.trans h)
      have h'' : ¬ j = k := hj
      simpa [Memory.without, Memory.read, h, h''] using ih
    · by_cases e : j = a
      · simp [Memory.without, Memory.read, e, h]
      · simpa [Memory.without, Memory.read, h, e] using ih

theorem Memory.read_insertAt_same (m : Memory) (k : Nat) (v : Word) (h : ∀ p ∈ m, p.1 ≠ k) : (m.insertAt k v).read k = v := by
  induction m with
  | nil => simp [Memory.insertAt, Memory.read]
  | cons p m ih =>
    obtain ⟨a, x⟩ := p
    have ha : ¬ k = a := fun e => h (a, x) (by simp) e.symm
    have hm := ih fun q hq => h q (by simp [hq])
    by_cases hlt : k < a
    · simp [Memory.insertAt, Memory.read, hlt]
    · simpa [Memory.insertAt, Memory.read, hlt, ha] using hm

theorem Memory.read_insertAt_ne (m : Memory) {k j : Nat} (v : Word) (hj : j ≠ k) : (m.insertAt k v).read j = m.read j := by
  induction m with
  | nil => simp [Memory.insertAt, Memory.read, hj]
  | cons p m ih =>
    obtain ⟨a, x⟩ := p
    by_cases hlt : k < a
    · simp [Memory.insertAt, Memory.read, hlt, hj]
    · simp only [Memory.insertAt, hlt, if_false, Memory.read, ih]

theorem Memory.without_addr_ne (m : Memory) (k : Nat) : ∀ p ∈ m.without k, p.1 ≠ k := by
  simp [Memory.without]

theorem Memory.read_write_same (m : Memory) (k : Nat) (v : Word) : (m.write k v).read k = v := by
  by_cases h : v = Memory.unlisted
  · simp [Memory.write, h, Memory.read_without_same]
  · simp [Memory.write, h, Memory.read_insertAt_same _ _ _ (Memory.without_addr_ne m k)]

theorem Memory.read_write_ne (m : Memory) {k j : Nat} (v : Word) (hj : j ≠ k) : (m.write k v).read j = m.read j := by
  by_cases h : v = Memory.unlisted
  · simp [Memory.write, h, Memory.read_without_ne m hj]
  · simp [Memory.write, h, Memory.read_insertAt_ne _ v hj, Memory.read_without_ne m hj]

/-! The canonical form. -/

theorem Memory.wfFrom_mono {w lo lo' : Nat} {m : Memory} (hle : lo' ≤ lo) (h : Memory.wfFrom w lo m = true) :
    Memory.wfFrom w lo' m = true := by
  cases m with
  | nil => rfl
  | cons p m =>
    obtain ⟨a, x⟩ := p
    simp only [Memory.wfFrom, Bool.and_eq_true, decide_eq_true_eq] at h ⊢
    exact ⟨⟨⟨hle.trans h.1.1.1, h.1.1.2⟩, h.1.2⟩, h.2⟩

theorem Memory.wfFrom_without {w : Nat} (m : Memory) (k lo : Nat) (h : Memory.wfFrom w lo m = true) :
    Memory.wfFrom w lo (m.without k) = true := by
  induction m generalizing lo with
  | nil => rfl
  | cons p m ih =>
    obtain ⟨a, x⟩ := p
    simp only [Memory.wfFrom, Bool.and_eq_true, decide_eq_true_eq] at h
    by_cases e : a = k
    · have : Memory.without ((a, x) :: m) k = Memory.without m k := by simp [Memory.without, e]
      rw [this]
      exact ih lo (Memory.wfFrom_mono (by omega) h.2)
    · have : Memory.without ((a, x) :: m) k = (a, x) :: Memory.without m k := by simp [Memory.without, e]
      rw [this]
      simp only [Memory.wfFrom, Bool.and_eq_true, decide_eq_true_eq]
      exact ⟨h.1, ih (a + 1) h.2⟩

theorem Memory.wfFrom_insertAt {w : Nat} (m : Memory) (k lo : Nat) (v : Word) (h : Memory.wfFrom w lo m = true)
    (hk : ∀ p ∈ m, p.1 ≠ k) (hlo : lo ≤ k) (hw : k < w) (hv : v ≠ Memory.unlisted) :
    Memory.wfFrom w lo (m.insertAt k v) = true := by
  induction m generalizing lo with
  | nil => simp [Memory.insertAt, Memory.wfFrom, hlo, hw, hv]
  | cons p m ih =>
    obtain ⟨a, x⟩ := p
    have ha : a ≠ k := hk (a, x) (by simp)
    simp only [Memory.wfFrom, Bool.and_eq_true, decide_eq_true_eq] at h
    by_cases hlt : k < a
    · simp only [Memory.insertAt, hlt, if_true, Memory.wfFrom, Bool.and_eq_true, decide_eq_true_eq]
      exact ⟨⟨⟨hlo, hw⟩, hv⟩, ⟨⟨⟨hlt, h.1.1.2⟩, h.1.2⟩, h.2⟩⟩
    · simp only [Memory.insertAt, hlt, if_false, Memory.wfFrom, Bool.and_eq_true, decide_eq_true_eq]
      exact ⟨h.1, ih (a + 1) h.2 (fun q hq => hk q (by simp [hq])) (by omega)⟩

/-- A write inside the memory keeps the canonical form. -/
theorem Memory.wf_write {w : Nat} (m : Memory) (k : Nat) (v : Word) (h : m.wf w = true) (hw : k < w) :
    (m.write k v).wf w = true := by
  have h0 := Memory.wfFrom_without m k 0 h
  by_cases hv : v = Memory.unlisted
  · simpa [Memory.write, Memory.wf, hv] using h0
  · simpa [Memory.write, Memory.wf, hv] using
      Memory.wfFrom_insertAt _ k 0 v h0 (Memory.without_addr_ne m k) (Nat.zero_le k) hw hv

theorem Memory.wfFrom_ofWordsFrom {w : Nat} (ws : List Word) (a lo : Nat) (hlo : lo ≤ a) (hw : a + ws.length ≤ w) :
    Memory.wfFrom w lo (Memory.ofWordsFrom a ws) = true := by
  induction ws generalizing a lo with
  | nil => rfl
  | cons x ws ih =>
    simp only [List.length_cons] at hw
    by_cases h : x = Memory.unlisted
    · simpa [Memory.ofWordsFrom, h] using ih (a + 1) lo (by omega) (by omega)
    · simp only [Memory.ofWordsFrom, h, if_false, Memory.wfFrom, Bool.and_eq_true, decide_eq_true_eq]
      exact ⟨⟨⟨hlo, by omega⟩, h⟩, ih (a + 1) (a + 1) (Nat.le_refl _) (by omega)⟩

/-- A memory filled from at most `w` words is canonical. -/
theorem Memory.wf_ofWordsFrom {w : Nat} (ws : List Word) (h : ws.length ≤ w) : (Memory.ofWordsFrom 0 ws).wf w = true :=
  Memory.wfFrom_ofWordsFrom ws 0 0 (Nat.le_refl 0) (by omega)

/-- Nothing is listed below the bound of a canonical list. -/
theorem Memory.read_below {w lo : Nat} (m : Memory) (h : Memory.wfFrom w lo m = true) {k : Nat} (hk : k < lo) :
    m.read k = Memory.unlisted := by
  induction m generalizing lo with
  | nil => rfl
  | cons p m ih =>
    obtain ⟨a, x⟩ := p
    simp only [Memory.wfFrom, Bool.and_eq_true, decide_eq_true_eq] at h
    have ha : ¬ k = a := by omega
    simpa [Memory.read, ha] using ih h.2 (by omega)

theorem Memory.read_ofWordsFrom_below (ws : List Word) {a k : Nat} (h : k < a) :
    (Memory.ofWordsFrom a ws).read k = Memory.unlisted :=
  Memory.read_below (w := a + ws.length) _ (Memory.wfFrom_ofWordsFrom ws a a (Nat.le_refl a) (Nat.le_refl _)) h

/-- A memory filled from a list reads as the list. -/
theorem Memory.read_ofWordsFrom (ws : List Word) (a i : Nat) (h : i < ws.length) :
    (Memory.ofWordsFrom a ws).read (a + i) = ws[i] := by
  induction ws generalizing a i with
  | nil => simp at h
  | cons x ws ih =>
    cases i with
    | zero =>
      by_cases e : x = Memory.unlisted
      · simp [Memory.ofWordsFrom, e, Memory.read_ofWordsFrom_below ws (Nat.lt_succ_self a)]
      · simp [Memory.ofWordsFrom, e, Memory.read]
    | succ i =>
      have hi : i < ws.length := by simpa using h
      have := ih (a + 1) i hi
      have e2 : a + (i + 1) = a + 1 + i := by omega
      have hne : ¬ a + 1 + i = a := by omega
      by_cases e : x = Memory.unlisted
      · simpa [Memory.ofWordsFrom, e, e2] using this
      · simpa [Memory.ofWordsFrom, e, Memory.read, e2, hne] using this

/-! The accesses of an instruction. -/

theorem State.memRead_eq_ok_iff (s : State) (ea v : Word) :
    s.memRead ea = .ok v ↔ ea.toNat < Config.dmemWords ∧ s.dmem.read ea.toNat = v := by
  unfold State.memRead; split <;> simp_all

theorem State.memRead_in_range (s : State) {ea : Word} (h : ea.toNat < Config.dmemWords) :
    s.memRead ea = .ok (s.dmem.read ea.toNat) := by simp [State.memRead, h]

theorem State.memRead_out_of_range (s : State) {ea : Word} (h : ¬ ea.toNat < Config.dmemWords) :
    s.memRead ea = .error .dataAddressOutOfRange := by simp [State.memRead, h]

theorem State.memWrite_eq_ok_iff (s t : State) (ea v : Word) :
    s.memWrite ea v = .ok t ↔
      ea.toNat < Config.dmemWords ∧ t = { s with dmem := s.dmem.write ea.toNat v } := by
  unfold State.memWrite; split <;> simp_all [eq_comm]

theorem State.memWrite_in_range (s : State) {ea : Word} (v : Word) (h : ea.toNat < Config.dmemWords) :
    s.memWrite ea v = .ok { s with dmem := s.dmem.write ea.toNat v } := by simp [State.memWrite, h]

theorem State.memWrite_out_of_range (s : State) {ea : Word} (v : Word) (h : ¬ ea.toNat < Config.dmemWords) :
    s.memWrite ea v = .error .dataAddressOutOfRange := by simp [State.memWrite, h]

theorem State.fetch_in_range (s : State) (h : s.pc.toNat < Config.imemWords) :
    s.fetch = .ok (s.imem.read s.pc.toNat) := by simp [State.fetch, h]

theorem State.fetch_out_of_range (s : State) (h : ¬ s.pc.toNat < Config.imemWords) :
    s.fetch = .error .fetchOutOfRange := by simp [State.fetch, h]

end Sys2Proof.Machine
end

