-- ==== Sys2Proof/Laws/PerInstr.lean ====
section
/-! SUPPORT. A statement made of every instruction, one lemma for each constructor: its encoded word matches its row of the tables of 30_encoding.md R89 to R91. -/

namespace Sys2Proof

/-- The mask and the match of the instruction's row (30_encoding.md R89, R90, R91). -/
def Laws.EncodingMatchesRow.row : Instr → Word × Word
  | .add _ _ => (0xC0F0#16, 0xC000#16)
  | .sub _ _ => (0xC0F0#16, 0xC010#16)
  | .and _ _ => (0xC0F0#16, 0xC020#16)
  | .or _ _ => (0xC0F0#16, 0xC030#16)
  | .xor _ _ => (0xC0F0#16, 0xC040#16)
  | .cmp _ _ => (0xC0F0#16, 0xC050#16)
  | .mov _ _ => (0xC0F0#16, 0xC060#16)
  | .addi _ _ _ => (0xC0F0#16, 0xC070#16)
  | .sll _ _ _ => (0xC0F0#16, 0xC080#16)
  | .slr _ _ _ => (0xC0F0#16, 0xC090#16)
  | .srl _ _ _ => (0xC0F0#16, 0xC0A0#16)
  | .sra _ _ _ => (0xC0F0#16, 0xC0B0#16)
  | .inp _ => (0xC0F0#16, 0xC0C0#16)
  | .out _ => (0xC0F0#16, 0xC0D0#16)
  | .halt => (0xC0F0#16, 0xC0F0#16)
  | .ld _ _ _ => (0xC000#16, 0x0000#16)
  | .st _ _ _ => (0xC000#16, 0x4000#16)
  | .li _ _ => (0xF800#16, 0x8000#16)
  | .b _ => (0xF800#16, 0xA000#16)
  | .be _ => (0xFF00#16, 0xB800#16)
  | .blt _ => (0xFF00#16, 0xB900#16)
  | .ble _ => (0xFF00#16, 0xBA00#16)
  | .bne _ => (0xFF00#16, 0xBB00#16)

/-- The encoded word, masked as the table says, is the row's match. -/
def Laws.EncodingMatchesRow.Statement (i : Instr) : Prop :=
  encode i &&& (Laws.EncodingMatchesRow.row i).1 = (Laws.EncodingMatchesRow.row i).2

theorem Laws.EncodingMatchesRow.add (rd : RegNum) (rs : RegNum) : Laws.EncodingMatchesRow.Statement (.add rd rs) := by
  apply BitVec.eq_of_getLsbD_eq
  intro i hi
  simp only [Laws.EncodingMatchesRow.row, encode, encodeWith, formatR, BitVec.getLsbD_and, BitVec.getLsbD_append]
  interval_cases i <;> simp

theorem Laws.EncodingMatchesRow.sub (rd : RegNum) (rs : RegNum) : Laws.EncodingMatchesRow.Statement (.sub rd rs) := by
  apply BitVec.eq_of_getLsbD_eq
  intro i hi
  simp only [Laws.EncodingMatchesRow.row, encode, encodeWith, formatR, BitVec.getLsbD_and, BitVec.getLsbD_append]
  interval_cases i <;> simp

theorem Laws.EncodingMatchesRow.and (rd : RegNum) (rs : RegNum) : Laws.EncodingMatchesRow.Statement (.and rd rs) := by
  apply BitVec.eq_of_getLsbD_eq
  intro i hi
  simp only [Laws.EncodingMatchesRow.row, encode, encodeWith, formatR, BitVec.getLsbD_and, BitVec.getLsbD_append]
  interval_cases i <;> simp

theorem Laws.EncodingMatchesRow.or (rd : RegNum) (rs : RegNum) : Laws.EncodingMatchesRow.Statement (.or rd rs) := by
  apply BitVec.eq_of_getLsbD_eq
  intro i hi
  simp only [Laws.EncodingMatchesRow.row, encode, encodeWith, formatR, BitVec.getLsbD_and, BitVec.getLsbD_append]
  interval_cases i <;> simp

theorem Laws.EncodingMatchesRow.xor (rd : RegNum) (rs : RegNum) : Laws.EncodingMatchesRow.Statement (.xor rd rs) := by
  apply BitVec.eq_of_getLsbD_eq
  intro i hi
  simp only [Laws.EncodingMatchesRow.row, encode, encodeWith, formatR, BitVec.getLsbD_and, BitVec.getLsbD_append]
  interval_cases i <;> simp

theorem Laws.EncodingMatchesRow.cmp (rd : RegNum) (rs : RegNum) : Laws.EncodingMatchesRow.Statement (.cmp rd rs) := by
  apply BitVec.eq_of_getLsbD_eq
  intro i hi
  simp only [Laws.EncodingMatchesRow.row, encode, encodeWith, formatR, BitVec.getLsbD_and, BitVec.getLsbD_append]
  interval_cases i <;> simp

theorem Laws.EncodingMatchesRow.mov (rd : RegNum) (rs : RegNum) : Laws.EncodingMatchesRow.Statement (.mov rd rs) := by
  apply BitVec.eq_of_getLsbD_eq
  intro i hi
  simp only [Laws.EncodingMatchesRow.row, encode, encodeWith, formatR, BitVec.getLsbD_and, BitVec.getLsbD_append]
  interval_cases i <;> simp

theorem Laws.EncodingMatchesRow.addi (rd : RegNum) (rs : RegNum) (d : BitVec 4) : Laws.EncodingMatchesRow.Statement (.addi rd rs d) := by
  apply BitVec.eq_of_getLsbD_eq
  intro i hi
  simp only [Laws.EncodingMatchesRow.row, encode, encodeWith, formatR, BitVec.getLsbD_and, BitVec.getLsbD_append]
  interval_cases i <;> simp

theorem Laws.EncodingMatchesRow.sll (rd : RegNum) (rs : RegNum) (n : Nat) : Laws.EncodingMatchesRow.Statement (.sll rd rs n) := by
  apply BitVec.eq_of_getLsbD_eq
  intro i hi
  simp only [Laws.EncodingMatchesRow.row, encode, encodeWith, formatR, BitVec.getLsbD_and, BitVec.getLsbD_append]
  interval_cases i <;> simp

theorem Laws.EncodingMatchesRow.slr (rd : RegNum) (rs : RegNum) (n : Nat) : Laws.EncodingMatchesRow.Statement (.slr rd rs n) := by
  apply BitVec.eq_of_getLsbD_eq
  intro i hi
  simp only [Laws.EncodingMatchesRow.row, encode, encodeWith, formatR, BitVec.getLsbD_and, BitVec.getLsbD_append]
  interval_cases i <;> simp

theorem Laws.EncodingMatchesRow.srl (rd : RegNum) (rs : RegNum) (n : Nat) : Laws.EncodingMatchesRow.Statement (.srl rd rs n) := by
  apply BitVec.eq_of_getLsbD_eq
  intro i hi
  simp only [Laws.EncodingMatchesRow.row, encode, encodeWith, formatR, BitVec.getLsbD_and, BitVec.getLsbD_append]
  interval_cases i <;> simp

theorem Laws.EncodingMatchesRow.sra (rd : RegNum) (rs : RegNum) (n : Nat) : Laws.EncodingMatchesRow.Statement (.sra rd rs n) := by
  apply BitVec.eq_of_getLsbD_eq
  intro i hi
  simp only [Laws.EncodingMatchesRow.row, encode, encodeWith, formatR, BitVec.getLsbD_and, BitVec.getLsbD_append]
  interval_cases i <;> simp

theorem Laws.EncodingMatchesRow.inp (rd : RegNum) : Laws.EncodingMatchesRow.Statement (.inp rd) := by
  apply BitVec.eq_of_getLsbD_eq
  intro i hi
  simp only [Laws.EncodingMatchesRow.row, encode, encodeWith, formatR, BitVec.getLsbD_and, BitVec.getLsbD_append]
  interval_cases i <;> simp

theorem Laws.EncodingMatchesRow.out (rs : RegNum) : Laws.EncodingMatchesRow.Statement (.out rs) := by
  apply BitVec.eq_of_getLsbD_eq
  intro i hi
  simp only [Laws.EncodingMatchesRow.row, encode, encodeWith, formatR, BitVec.getLsbD_and, BitVec.getLsbD_append]
  interval_cases i <;> simp

theorem Laws.EncodingMatchesRow.halt : Laws.EncodingMatchesRow.Statement (.halt) := by
  apply BitVec.eq_of_getLsbD_eq
  intro i hi
  simp only [Laws.EncodingMatchesRow.row, encode, encodeWith, formatR, BitVec.getLsbD_and, BitVec.getLsbD_append]
  interval_cases i <;> simp

theorem Laws.EncodingMatchesRow.ld (ra : RegNum) (rb : RegNum) (d : BitVec 8) : Laws.EncodingMatchesRow.Statement (.ld ra rb d) := by
  apply BitVec.eq_of_getLsbD_eq
  intro i hi
  simp only [Laws.EncodingMatchesRow.row, encode, encodeWith, formatM, BitVec.getLsbD_and, BitVec.getLsbD_append]
  interval_cases i <;> simp

theorem Laws.EncodingMatchesRow.st (ra : RegNum) (rb : RegNum) (d : BitVec 8) : Laws.EncodingMatchesRow.Statement (.st ra rb d) := by
  apply BitVec.eq_of_getLsbD_eq
  intro i hi
  simp only [Laws.EncodingMatchesRow.row, encode, encodeWith, formatM, BitVec.getLsbD_and, BitVec.getLsbD_append]
  interval_cases i <;> simp

theorem Laws.EncodingMatchesRow.li (rb : RegNum) (d : BitVec 8) : Laws.EncodingMatchesRow.Statement (.li rb d) := by
  apply BitVec.eq_of_getLsbD_eq
  intro i hi
  simp only [Laws.EncodingMatchesRow.row, encode, encodeWith, formatI, BitVec.getLsbD_and, BitVec.getLsbD_append]
  interval_cases i <;> simp

theorem Laws.EncodingMatchesRow.b (d : BitVec 8) : Laws.EncodingMatchesRow.Statement (.b d) := by
  apply BitVec.eq_of_getLsbD_eq
  intro i hi
  simp only [Laws.EncodingMatchesRow.row, encode, encodeWith, formatI, BitVec.getLsbD_and, BitVec.getLsbD_append]
  interval_cases i <;> simp

theorem Laws.EncodingMatchesRow.be (d : BitVec 8) : Laws.EncodingMatchesRow.Statement (.be d) := by
  apply BitVec.eq_of_getLsbD_eq
  intro i hi
  simp only [Laws.EncodingMatchesRow.row, encode, encodeWith, formatI, BitVec.getLsbD_and, BitVec.getLsbD_append]
  interval_cases i <;> simp

theorem Laws.EncodingMatchesRow.blt (d : BitVec 8) : Laws.EncodingMatchesRow.Statement (.blt d) := by
  apply BitVec.eq_of_getLsbD_eq
  intro i hi
  simp only [Laws.EncodingMatchesRow.row, encode, encodeWith, formatI, BitVec.getLsbD_and, BitVec.getLsbD_append]
  interval_cases i <;> simp

theorem Laws.EncodingMatchesRow.ble (d : BitVec 8) : Laws.EncodingMatchesRow.Statement (.ble d) := by
  apply BitVec.eq_of_getLsbD_eq
  intro i hi
  simp only [Laws.EncodingMatchesRow.row, encode, encodeWith, formatI, BitVec.getLsbD_and, BitVec.getLsbD_append]
  interval_cases i <;> simp

theorem Laws.EncodingMatchesRow.bne (d : BitVec 8) : Laws.EncodingMatchesRow.Statement (.bne d) := by
  apply BitVec.eq_of_getLsbD_eq
  intro i hi
  simp only [Laws.EncodingMatchesRow.row, encode, encodeWith, params, formatI, BitVec.getLsbD_and, BitVec.getLsbD_append]
  interval_cases i <;> simp

end Sys2Proof
end

