-- ==== Sys2Proof/Laws/State.lean ====
section
/-! SUPPORT. One lemma for each field of State and each update of it, so that no proof unfolds a record update. -/

namespace Sys2Proof.Machine

/-! Registers read back. -/

@[simp] theorem State.readReg_writeReg_same (s : State) (r : RegNum) (v : Word) : (s.writeReg r v).readReg r = v := by
  simp [State.readReg, State.writeReg]

theorem State.readReg_writeReg_ne (s : State) {r q : RegNum} (v : Word) (h : q ≠ r) :
    (s.writeReg r v).readReg q = s.readReg q := by
  have h' : r.val ≠ q.val := fun e => h (Fin.ext e.symm)
  simp [State.readReg, State.writeReg, Vector.getElem_set_ne, h']

@[simp] theorem State.regWritten_writeReg_same (s : State) (r : RegNum) (v : Word) : (s.writeReg r v).regWritten r = true := by
  simp [State.regWritten, State.writeReg]

theorem State.regWritten_writeReg_ne (s : State) {r q : RegNum} (v : Word) (h : q ≠ r) :
    (s.writeReg r v).regWritten q = s.regWritten q := by
  have h' : r.val ≠ q.val := fun e => h (Fin.ext e.symm)
  simp [State.regWritten, State.writeReg, Vector.getElem_set_ne, h']

/-! After `writeReg`. -/

@[simp] theorem State.writeReg_pc (s : State) (r : RegNum) (v : Word) : (s.writeReg r v).pc = s.pc := rfl
@[simp] theorem State.writeReg_flags (s : State) (r : RegNum) (v : Word) : (s.writeReg r v).flags = s.flags := rfl
@[simp] theorem State.writeReg_imem (s : State) (r : RegNum) (v : Word) : (s.writeReg r v).imem = s.imem := rfl
@[simp] theorem State.writeReg_dmem (s : State) (r : RegNum) (v : Word) : (s.writeReg r v).dmem = s.dmem := rfl
@[simp] theorem State.writeReg_out (s : State) (r : RegNum) (v : Word) : (s.writeReg r v).out = s.out := rfl
@[simp] theorem State.writeReg_outTrace (s : State) (r : RegNum) (v : Word) : (s.writeReg r v).outTrace = s.outTrace := rfl
@[simp] theorem State.writeReg_halted (s : State) (r : RegNum) (v : Word) : (s.writeReg r v).halted = s.halted := rfl
@[simp] theorem State.writeReg_inputs (s : State) (r : RegNum) (v : Word) : (s.writeReg r v).inputs = s.inputs := rfl
@[simp] theorem State.writeReg_flagsWritten (s : State) (r : RegNum) (v : Word) : (s.writeReg r v).flagsWritten = s.flagsWritten := rfl
@[simp] theorem State.writeReg_draws (s : State) (r : RegNum) (v : Word) : (s.writeReg r v).draws = s.draws := rfl

/-! After `setFlagsClearC`. -/

@[simp] theorem State.setFlagsClearC_regs (s : State) (res : Word) : (s.setFlagsClearC res).regs = s.regs := rfl
@[simp] theorem State.setFlagsClearC_pc (s : State) (res : Word) : (s.setFlagsClearC res).pc = s.pc := rfl
@[simp] theorem State.setFlagsClearC_flags (s : State) (res : Word) : (s.setFlagsClearC res).flags = resultFlags res false false := rfl
@[simp] theorem State.setFlagsClearC_imem (s : State) (res : Word) : (s.setFlagsClearC res).imem = s.imem := rfl
@[simp] theorem State.setFlagsClearC_dmem (s : State) (res : Word) : (s.setFlagsClearC res).dmem = s.dmem := rfl
@[simp] theorem State.setFlagsClearC_out (s : State) (res : Word) : (s.setFlagsClearC res).out = s.out := rfl
@[simp] theorem State.setFlagsClearC_outTrace (s : State) (res : Word) : (s.setFlagsClearC res).outTrace = s.outTrace := rfl
@[simp] theorem State.setFlagsClearC_halted (s : State) (res : Word) : (s.setFlagsClearC res).halted = s.halted := rfl
@[simp] theorem State.setFlagsClearC_inputs (s : State) (res : Word) : (s.setFlagsClearC res).inputs = s.inputs := rfl
@[simp] theorem State.setFlagsClearC_regsWritten (s : State) (res : Word) : (s.setFlagsClearC res).regsWritten = s.regsWritten := rfl
@[simp] theorem State.setFlagsClearC_flagsWritten (s : State) (res : Word) : (s.setFlagsClearC res).flagsWritten = true := rfl
@[simp] theorem State.setFlagsClearC_draws (s : State) (res : Word) : (s.setFlagsClearC res).draws = s.draws := rfl
@[simp] theorem State.setFlagsClearC_readReg (s : State) (res : Word) (q : RegNum) : (s.setFlagsClearC res).readReg q = s.readReg q := rfl
@[simp] theorem State.setFlagsClearC_regWritten (s : State) (res : Word) (q : RegNum) : (s.setFlagsClearC res).regWritten q = s.regWritten q := rfl

/-! After `setFlagsFreeC`. -/

@[simp] theorem State.setFlagsFreeC_regs (s : State) (res : Word) (v : Bool) : (s.setFlagsFreeC res v).regs = s.regs := rfl
@[simp] theorem State.setFlagsFreeC_pc (s : State) (res : Word) (v : Bool) : (s.setFlagsFreeC res v).pc = s.pc := rfl
@[simp] theorem State.setFlagsFreeC_flags (s : State) (res : Word) (v : Bool) : (s.setFlagsFreeC res v).flags = resultFlags res v (Config.freeC s.draws) := rfl
@[simp] theorem State.setFlagsFreeC_imem (s : State) (res : Word) (v : Bool) : (s.setFlagsFreeC res v).imem = s.imem := rfl
@[simp] theorem State.setFlagsFreeC_dmem (s : State) (res : Word) (v : Bool) : (s.setFlagsFreeC res v).dmem = s.dmem := rfl
@[simp] theorem State.setFlagsFreeC_out (s : State) (res : Word) (v : Bool) : (s.setFlagsFreeC res v).out = s.out := rfl
@[simp] theorem State.setFlagsFreeC_outTrace (s : State) (res : Word) (v : Bool) : (s.setFlagsFreeC res v).outTrace = s.outTrace := rfl
@[simp] theorem State.setFlagsFreeC_halted (s : State) (res : Word) (v : Bool) : (s.setFlagsFreeC res v).halted = s.halted := rfl
@[simp] theorem State.setFlagsFreeC_inputs (s : State) (res : Word) (v : Bool) : (s.setFlagsFreeC res v).inputs = s.inputs := rfl
@[simp] theorem State.setFlagsFreeC_regsWritten (s : State) (res : Word) (v : Bool) : (s.setFlagsFreeC res v).regsWritten = s.regsWritten := rfl
@[simp] theorem State.setFlagsFreeC_flagsWritten (s : State) (res : Word) (v : Bool) : (s.setFlagsFreeC res v).flagsWritten = true := rfl
@[simp] theorem State.setFlagsFreeC_draws (s : State) (res : Word) (v : Bool) : (s.setFlagsFreeC res v).draws = s.draws + 1 := rfl
@[simp] theorem State.setFlagsFreeC_readReg (s : State) (res : Word) (v : Bool) (q : RegNum) : (s.setFlagsFreeC res v).readReg q = s.readReg q := rfl
@[simp] theorem State.setFlagsFreeC_regWritten (s : State) (res : Word) (v : Bool) (q : RegNum) : (s.setFlagsFreeC res v).regWritten q = s.regWritten q := rfl

/-! After `advance`. -/

@[simp] theorem State.advance_regs (s : State) : s.advance.regs = s.regs := rfl
@[simp] theorem State.advance_pc (s : State) : s.advance.pc = s.pc + 1#16 := rfl
@[simp] theorem State.advance_flags (s : State) : s.advance.flags = s.flags := rfl
@[simp] theorem State.advance_imem (s : State) : s.advance.imem = s.imem := rfl
@[simp] theorem State.advance_dmem (s : State) : s.advance.dmem = s.dmem := rfl
@[simp] theorem State.advance_out (s : State) : s.advance.out = s.out := rfl
@[simp] theorem State.advance_outTrace (s : State) : s.advance.outTrace = s.outTrace := rfl
@[simp] theorem State.advance_halted (s : State) : s.advance.halted = s.halted := rfl
@[simp] theorem State.advance_inputs (s : State) : s.advance.inputs = s.inputs := rfl
@[simp] theorem State.advance_regsWritten (s : State) : s.advance.regsWritten = s.regsWritten := rfl
@[simp] theorem State.advance_flagsWritten (s : State) : s.advance.flagsWritten = s.flagsWritten := rfl
@[simp] theorem State.advance_draws (s : State) : s.advance.draws = s.draws := rfl
@[simp] theorem State.advance_readReg (s : State) (q : RegNum) : s.advance.readReg q = s.readReg q := rfl
@[simp] theorem State.advance_regWritten (s : State) (q : RegNum) : s.advance.regWritten q = s.regWritten q := rfl

/-! After `jump`. -/

@[simp] theorem State.jump_regs (s : State) (t : Word) : (s.jump t).regs = s.regs := rfl
@[simp] theorem State.jump_pc (s : State) (t : Word) : (s.jump t).pc = t := rfl
@[simp] theorem State.jump_flags (s : State) (t : Word) : (s.jump t).flags = s.flags := rfl
@[simp] theorem State.jump_imem (s : State) (t : Word) : (s.jump t).imem = s.imem := rfl
@[simp] theorem State.jump_dmem (s : State) (t : Word) : (s.jump t).dmem = s.dmem := rfl
@[simp] theorem State.jump_out (s : State) (t : Word) : (s.jump t).out = s.out := rfl
@[simp] theorem State.jump_outTrace (s : State) (t : Word) : (s.jump t).outTrace = s.outTrace := rfl
@[simp] theorem State.jump_halted (s : State) (t : Word) : (s.jump t).halted = s.halted := rfl
@[simp] theorem State.jump_inputs (s : State) (t : Word) : (s.jump t).inputs = s.inputs := rfl
@[simp] theorem State.jump_regsWritten (s : State) (t : Word) : (s.jump t).regsWritten = s.regsWritten := rfl
@[simp] theorem State.jump_flagsWritten (s : State) (t : Word) : (s.jump t).flagsWritten = s.flagsWritten := rfl
@[simp] theorem State.jump_draws (s : State) (t : Word) : (s.jump t).draws = s.draws := rfl
@[simp] theorem State.jump_readReg (s : State) (t : Word) (q : RegNum) : (s.jump t).readReg q = s.readReg q := rfl
@[simp] theorem State.jump_regWritten (s : State) (t : Word) (q : RegNum) : (s.jump t).regWritten q = s.regWritten q := rfl

/-! After `halt`. -/

@[simp] theorem State.halt_regs (s : State) : s.halt.regs = s.regs := rfl
@[simp] theorem State.halt_pc (s : State) : s.halt.pc = s.pc := rfl
@[simp] theorem State.halt_flags (s : State) : s.halt.flags = s.flags := rfl
@[simp] theorem State.halt_imem (s : State) : s.halt.imem = s.imem := rfl
@[simp] theorem State.halt_dmem (s : State) : s.halt.dmem = s.dmem := rfl
@[simp] theorem State.halt_out (s : State) : s.halt.out = s.out := rfl
@[simp] theorem State.halt_outTrace (s : State) : s.halt.outTrace = s.outTrace := rfl
@[simp] theorem State.halt_halted (s : State) : s.halt.halted = true := rfl
@[simp] theorem State.halt_inputs (s : State) : s.halt.inputs = s.inputs := rfl
@[simp] theorem State.halt_regsWritten (s : State) : s.halt.regsWritten = s.regsWritten := rfl
@[simp] theorem State.halt_flagsWritten (s : State) : s.halt.flagsWritten = s.flagsWritten := rfl
@[simp] theorem State.halt_draws (s : State) : s.halt.draws = s.draws := rfl
@[simp] theorem State.halt_readReg (s : State) (q : RegNum) : s.halt.readReg q = s.readReg q := rfl
@[simp] theorem State.halt_regWritten (s : State) (q : RegNum) : s.halt.regWritten q = s.regWritten q := rfl

/-! After `output`. -/

@[simp] theorem State.output_regs (s : State) (v : Word) : (s.output v).regs = s.regs := rfl
@[simp] theorem State.output_pc (s : State) (v : Word) : (s.output v).pc = s.pc := rfl
@[simp] theorem State.output_flags (s : State) (v : Word) : (s.output v).flags = s.flags := rfl
@[simp] theorem State.output_imem (s : State) (v : Word) : (s.output v).imem = s.imem := rfl
@[simp] theorem State.output_dmem (s : State) (v : Word) : (s.output v).dmem = s.dmem := rfl
@[simp] theorem State.output_out (s : State) (v : Word) : (s.output v).out = v := rfl
@[simp] theorem State.output_outTrace (s : State) (v : Word) : (s.output v).outTrace = s.outTrace ++ [v] := rfl
@[simp] theorem State.output_halted (s : State) (v : Word) : (s.output v).halted = s.halted := rfl
@[simp] theorem State.output_inputs (s : State) (v : Word) : (s.output v).inputs = s.inputs := rfl
@[simp] theorem State.output_regsWritten (s : State) (v : Word) : (s.output v).regsWritten = s.regsWritten := rfl
@[simp] theorem State.output_flagsWritten (s : State) (v : Word) : (s.output v).flagsWritten = s.flagsWritten := rfl
@[simp] theorem State.output_draws (s : State) (v : Word) : (s.output v).draws = s.draws := rfl
@[simp] theorem State.output_readReg (s : State) (v : Word) (q : RegNum) : (s.output v).readReg q = s.readReg q := rfl
@[simp] theorem State.output_regWritten (s : State) (v : Word) (q : RegNum) : (s.output v).regWritten q = s.regWritten q := rfl

/-! After `switchesSeen`: only `inputs` and `draws` can change. -/

@[simp] theorem State.switchesSeen_regs (s : State) : s.switchesSeen.regs = s.regs := by
  unfold State.switchesSeen; split <;> rfl
@[simp] theorem State.switchesSeen_pc (s : State) : s.switchesSeen.pc = s.pc := by
  unfold State.switchesSeen; split <;> rfl
@[simp] theorem State.switchesSeen_flags (s : State) : s.switchesSeen.flags = s.flags := by
  unfold State.switchesSeen; split <;> rfl
@[simp] theorem State.switchesSeen_imem (s : State) : s.switchesSeen.imem = s.imem := by
  unfold State.switchesSeen; split <;> rfl
@[simp] theorem State.switchesSeen_dmem (s : State) : s.switchesSeen.dmem = s.dmem := by
  unfold State.switchesSeen; split <;> rfl
@[simp] theorem State.switchesSeen_out (s : State) : s.switchesSeen.out = s.out := by
  unfold State.switchesSeen; split <;> rfl
@[simp] theorem State.switchesSeen_outTrace (s : State) : s.switchesSeen.outTrace = s.outTrace := by
  unfold State.switchesSeen; split <;> rfl
@[simp] theorem State.switchesSeen_halted (s : State) : s.switchesSeen.halted = s.halted := by
  unfold State.switchesSeen; split <;> rfl
@[simp] theorem State.switchesSeen_regsWritten (s : State) : s.switchesSeen.regsWritten = s.regsWritten := by
  unfold State.switchesSeen; split <;> rfl
@[simp] theorem State.switchesSeen_flagsWritten (s : State) : s.switchesSeen.flagsWritten = s.flagsWritten := by
  unfold State.switchesSeen; split <;> rfl
@[simp] theorem State.switchesSeen_readReg (s : State) (q : RegNum) : s.switchesSeen.readReg q = s.readReg q := by
  simp [State.readReg]
@[simp] theorem State.switchesSeen_regWritten (s : State) (q : RegNum) : s.switchesSeen.regWritten q = s.regWritten q := by
  simp [State.regWritten]
theorem State.switchesSeen_inputs (s : State) : s.switchesSeen.inputs = s.inputs.tail := by
  unfold State.switchesSeen; split <;> simp_all
theorem State.switchesSeen_draws (s : State) : s.switchesSeen.draws = if s.inputs = [] then s.draws + 1 else s.draws := by
  unfold State.switchesSeen; split <;> simp_all
theorem State.currentSwitches_cons (s : State) {sw : Switches} {rest : List Switches} (h : s.inputs = sw :: rest) :
    s.currentSwitches = sw := by
  simp [State.currentSwitches, h]

/-! The condition codes of a result. -/

@[simp] theorem resultFlags_s (res : Word) (v c : Bool) : (resultFlags res v c).s = res.msb := rfl
@[simp] theorem resultFlags_z (res : Word) (v c : Bool) : (resultFlags res v c).z = (res == 0#16) := rfl
@[simp] theorem resultFlags_v (res : Word) (v c : Bool) : (resultFlags res v c).v = v := rfl
@[simp] theorem resultFlags_c (res : Word) (v c : Bool) : (resultFlags res v c).c = c := rfl

/-- S and Z of one result are never both 1. -/
theorem resultFlags_sign_zero (res : Word) (v c : Bool) :
    ((resultFlags res v c).s && (resultFlags res v c).z) = false := by
  by_cases h : res = 0#16
  · subst h; simp [BitVec.msb_eq_decide]
  · simp [h]

/-! After `setSwitches`. -/

@[simp] theorem State.setSwitches_inputs (s : State) (l : List Switches) : (s.setSwitches l).inputs = l := rfl
@[simp] theorem State.setSwitches_regs (s : State) (l : List Switches) : (s.setSwitches l).regs = s.regs := rfl
@[simp] theorem State.setSwitches_pc (s : State) (l : List Switches) : (s.setSwitches l).pc = s.pc := rfl

end Sys2Proof.Machine
end

