-- ==== Sys2Proof/Laws/Step.lean ====
section
/-! SUPPORT. What a step can do, said once: where the instruction it runs comes from, and the next state of each meaning. -/

namespace Sys2Proof.Machine

/-- The fetched instruction is the decoded word at `pc`, which lies in the instruction memory. -/
theorem State.fetchInstr_eq_ok_iff (s : State) (i : Instr) :
    s.fetchInstr = .ok i ↔ s.pc.toNat < Config.imemWords ∧ decode (s.imem.read s.pc.toNat) = .ok i := by
  by_cases h : s.pc.toNat < Config.imemWords
  · simp only [State.fetchInstr, s.fetch_in_range h, h, true_and]
    cases decode (s.imem.read s.pc.toNat) <;> simp
  · simp [State.fetchInstr, s.fetch_out_of_range h, h]

/-- If a step answers a next state, the machine was running and the step ran the fetched instruction. -/
theorem step_eq_next_iff (s t : State) :
    step s = .next t ↔ s.halted = false ∧ ∃ i, s.fetchInstr = .ok i ∧ exec i s = .next t := by
  unfold step
  cases hh : s.halted
  · cases hf : s.fetchInstr <;> simp
  · simp

/-- A step never faults while the machine runs. -/
theorem step_eq_fault_iff (s : State) (f : Fault) : step s = .fault f ↔ s.halted = true ∧ f = .halted ∨
    s.halted = false ∧ ∃ i, s.fetchInstr = .ok i ∧ exec i s = .fault f := by
  unfold step
  cases hh : s.halted
  · cases hf : s.fetchInstr <;> simp
  · simp [eq_comm]

/-- LD inside the data memory. -/
theorem execLd_in_range (s : State) (ra rb : RegNum) (d : BitVec 8) (h : (s.effAddr rb d).toNat < Config.dmemWords) :
    execLd ra rb d s = .next ((s.writeReg ra (s.dmem.read (s.effAddr rb d).toNat)).advance) := by
  simp [execLd, s.memRead_in_range h]

/-- LD outside the data memory. -/
theorem execLd_out_of_range (s : State) (ra rb : RegNum) (d : BitVec 8) (h : ¬ (s.effAddr rb d).toNat < Config.dmemWords) :
    execLd ra rb d s = .refused .dataAddressOutOfRange := by
  simp [execLd, s.memRead_out_of_range h]

/-- ST inside the data memory. -/
theorem execSt_in_range (s : State) (ra rb : RegNum) (d : BitVec 8) (h : (s.effAddr rb d).toNat < Config.dmemWords) :
    execSt ra rb d s =
      .next ({ s with dmem := s.dmem.write (s.effAddr rb d).toNat (s.readReg ra) } : State).advance := by
  simp [execSt, s.memWrite_in_range _ h]

/-- ST outside the data memory. -/
theorem execSt_out_of_range (s : State) (ra rb : RegNum) (d : BitVec 8) (h : ¬ (s.effAddr rb d).toNat < Config.dmemWords) :
    execSt ra rb d s = .refused .dataAddressOutOfRange := by
  simp [execSt, s.memWrite_out_of_range _ h]

/-- If LD answers a next state, its address was in range and the register took the word there. -/
theorem execLd_eq_next_iff (s t : State) (ra rb : RegNum) (d : BitVec 8) :
    execLd ra rb d s = .next t ↔ (s.effAddr rb d).toNat < Config.dmemWords ∧
      t = (s.writeReg ra (s.dmem.read (s.effAddr rb d).toNat)).advance := by
  by_cases h : (s.effAddr rb d).toNat < Config.dmemWords
  · simp [execLd_in_range s ra rb d h, h, eq_comm]
  · simp [execLd_out_of_range s ra rb d h, h]

/-- If ST answers a next state, its address was in range and the word there became the register's. -/
theorem execSt_eq_next_iff (s t : State) (ra rb : RegNum) (d : BitVec 8) :
    execSt ra rb d s = .next t ↔ (s.effAddr rb d).toNat < Config.dmemWords ∧
      t = ({ s with dmem := s.dmem.write (s.effAddr rb d).toNat (s.readReg ra) } : State).advance := by
  by_cases h : (s.effAddr rb d).toNat < Config.dmemWords
  · simp [execSt_in_range s ra rb d h, h, eq_comm]
  · simp [execSt_out_of_range s ra rb d h, h]

/-- A conditional branch changes `pc` and nothing else. -/
theorem branchWhen_eq (taken : Bool) (d : BitVec 8) (s : State) :
    branchWhen taken d s = .next { s with pc := if taken then s.branchTarget d else s.pc + 1#16 } := by
  cases taken <;> rfl

end Sys2Proof.Machine
end

