-- ==== Sys2Proof/Tests/Slice0.lean ====
section
/-! SUPPORT. Tests of the model. Expected results are those of 95_test_vectors.md or worked by hand from the rule named. -/

namespace Sys2Proof

/-! An ill-formed term for each check of WellFormed. -/

theorem test_wf_sll : (Instr.sll 0 0 16).wf = false := by decide
theorem test_wf_slr : (Instr.slr 1 2 16).wf = false := by decide
theorem test_wf_srl : (Instr.srl 3 4 17).wf = false := by decide
theorem test_wf_sra : (Instr.sra 5 6 400).wf = false := by decide
theorem test_wf_top_count : (Instr.sra 5 6 15).wf = true := by decide

/-! Decoding of words written out bit by bit from 30_encoding.md R82 to R91 (operands as in 95_test_vectors.md where it has the word). -/

theorem test_decode_add : decode 0b1101101000000000#16 = .ok (.add 2 3) := by decide
theorem test_decode_sub : decode 0b1101101000010000#16 = .ok (.sub 2 3) := by decide
theorem test_decode_and : decode 0b1101101000100000#16 = .ok (.and 2 3) := by decide
theorem test_decode_or : decode 0b1101101000110000#16 = .ok (.or 2 3) := by decide
theorem test_decode_xor : decode 0b1110010101000000#16 = .ok (.xor 5 4) := by decide
theorem test_decode_cmp : decode 0b1101000101010000#16 = .ok (.cmp 1 2) := by decide
theorem test_decode_mov : decode 0b1110010101100000#16 = .ok (.mov 5 4) := by decide
theorem test_decode_addi : decode 0b1101101001111000#16 = .ok (.addi 2 3 0b1000#4) := by decide
theorem test_decode_sll : decode 0b1101101010001000#16 = .ok (.sll 2 3 8) := by decide
theorem test_decode_slr : decode 0b1100100110011111#16 = .ok (.slr 1 1 15) := by decide
theorem test_decode_srl : decode 0b1101101010100100#16 = .ok (.srl 2 3 4) := by decide
theorem test_decode_sra : decode 0b1100000010111111#16 = .ok (.sra 0 0 15) := by decide
theorem test_decode_in : decode 0b1111100111000101#16 = .ok (.inp 1) := by decide
theorem test_decode_out : decode 0b1100011111010000#16 = .ok (.out 0) := by decide
theorem test_decode_halt : decode 0b1111111111111111#16 = .ok .halt := by decide
theorem test_decode_ld : decode 0b0011111110000000#16 = .ok (.ld 7 7 0x80#8) := by decide
theorem test_decode_st : decode 0b0101010110101010#16 = .ok (.st 2 5 0xAA#8) := by decide
theorem test_decode_li : decode 0b1000011111111111#16 = .ok (.li 7 0xFF#8) := by decide
theorem test_decode_b : decode 0b1010011111111111#16 = .ok (.b 0xFF#8) := by decide
theorem test_decode_be : decode 0b1011100000000001#16 = .ok (.be 0x01#8) := by decide
theorem test_decode_blt : decode 0b1011100111111011#16 = .ok (.blt 0xFB#8) := by decide
theorem test_decode_ble : decode 0b1011101000000011#16 = .ok (.ble 0x03#8) := by decide
theorem test_decode_bne : decode 0b1011101111111101#16 = .ok (.bne 0xFD#8) := by decide
theorem test_decode_reserved :
    decode 0xC0E0#16 = .error .reserved ∧ decode 0xFFEF#16 = .error .reserved ∧ decode 0x8800#16 = .error .reserved
      ∧ decode 0xB7FF#16 = .error .reserved ∧ decode 0xBC00#16 = .error .reserved ∧ decode 0xBEFF#16 = .error .reserved := by
  decide
theorem test_decode_contested : decode 0xBF00#16 = .error .contested ∧ decode 0xBFFD#16 = .error .contested := by decide
theorem test_encode_words :
    encode .halt = 0xC0F0#16 ∧ encode (.addi 0 0 0#4) = 0xC070#16 ∧ encode (.st 0 2 12#8) = 0x420C#16
      ∧ encode (.blt 0xFB#8) = 0xB9FB#16 := by decide

/-! One step of each instruction from a small state. Expected values are the rows of 95_test_vectors.md section 2, or the corner cases of
the rule named. -/

namespace Tests

open Machine

/-- A running machine at `pc` with these registers written and these S, Z, V. -/
def setup (pc : Word) (regs : List (RegNum × Word)) (f : Bool × Bool × Bool) : State :=
  regs.foldl (fun s p => s.writeReg p.1 p.2)
    { State.reset with pc := pc, flags := { s := f.1, z := f.2.1, v := f.2.2, c := false }, flagsWritten := true }

/-- The state after the word `w` is run at `s`. -/
def after (w : Word) (s : State) : Option State :=
  match step (s.withFetchWord 16 w.toNat) with
  | .next t => some t
  | .fault _ => none
  | .refused _ => none

/-- Why the word `w` is refused at `s`. -/
def refusal (w : Word) (s : State) : Option Refusal :=
  match step (s.withFetchWord 16 w.toNat) with
  | .next _ => none
  | .fault _ => none
  | .refused r => some r

/-- Register `r`, S, Z, V and pc. -/
def seen (r : RegNum) (t : State) : Word × Bool × Bool × Bool × Word := (t.readReg r, t.flags.s, t.flags.z, t.flags.v, t.pc)

/-- Registers 2 and 3 as in 95_test_vectors.md section 2.2, S, Z, V all set before. -/
def two (a b : Word) : State := setup 1#16 [(2, a), (3, b)] (true, true, true)

theorem test_add_negative_overflow : (after 0xDA00#16 (two 0x8000#16 0xFFFF#16)).map (seen 2) = some (0x7FFF#16, false, false, true, 2#16) := by decide
theorem test_add_same_register : (after 0xD200#16 (two 0x8000#16 0#16)).map (seen 2) = some (0#16, false, true, true, 2#16) := by decide
theorem test_sub_order : (after 0xDA10#16 (two 3#16 5#16)).map (seen 2) = some (0xFFFE#16, true, false, false, 2#16) := by decide
theorem test_sub_overflow : (after 0xDA10#16 (two 0#16 0x8000#16)).map (seen 2) = some (0x8000#16, true, false, true, 2#16) := by decide
theorem test_and : (after 0xDA20#16 (two 0xF0F0#16 0x3C3C#16)).map (seen 2) = some (0x3030#16, false, false, false, 2#16) := by decide
theorem test_or : (after 0xDA30#16 (two 0xF0F0#16 0x3C3C#16)).map (seen 2) = some (0xFCFC#16, true, false, false, 2#16) := by decide
theorem test_xor : (after 0xDA40#16 (two 0x8000#16 0x8000#16)).map (seen 2) = some (0#16, false, true, false, 2#16) := by decide
theorem test_logic_clears_c : ((after 0xDA40#16 { two 1#16 2#16 with flags := ⟨true, true, true, true⟩ }).map fun t => t.flags.c) = some false := by decide
theorem test_cmp_keeps_register : (after 0xDA50#16 (two 0x8000#16 1#16)).map (seen 2) = some (0x8000#16, false, false, true, 2#16) := by decide
theorem test_cmp_overflow : (after 0xDA50#16 (two 0x7FFF#16 0xFFFF#16)).map (seen 3) = some (0xFFFF#16, true, false, true, 2#16) := by decide
theorem test_mov : (after 0xDA60#16 (setup 1#16 [(3, 0x8001#16)] (false, true, true))).map (seen 2) = some (0x8001#16, true, false, false, 2#16) := by decide
theorem test_mov_is_a_copy : (after 0xDA60#16 (two 5#16 0x7FFF#16)).map (seen 3) = some (0x7FFF#16, false, false, false, 2#16) := by decide
theorem test_addi_smallest : (after 0xDA78#16 (two 0x1111#16 0x8007#16)).map (seen 2) = some (0x7FFF#16, false, false, true, 2#16) := by decide
theorem test_addi_filler : (after 0xC070#16 (setup 1#16 [(0, 0x8000#16)] (false, true, true))).map (seen 0) = some (0x8000#16, true, false, false, 2#16) := by decide
theorem test_sll : (after 0xDA8F#16 (two 0#16 0x7FFF#16)).map (seen 2) = some (0x8000#16, true, false, false, 2#16) := by decide
theorem test_sll_zero_count : (after 0xDA80#16 (two 0#16 0x8001#16)).map (seen 2) = some (0x8001#16, true, false, false, 2#16) := by decide
theorem test_slr : (after 0xDA94#16 (two 0#16 0x8001#16)).map (seen 2) = some (0x0018#16, false, false, false, 2#16) := by decide
theorem test_slr_top_count : (after 0xDA9F#16 (two 0#16 0x7FFF#16)).map (seen 2) = some (0xBFFF#16, true, false, false, 2#16) := by decide
theorem test_srl : (after 0xDAA4#16 (two 0#16 0x8001#16)).map (seen 2) = some (0x0800#16, false, false, false, 2#16) := by decide
theorem test_srl_to_zero : (after 0xDAAF#16 (two 0#16 0x7FFF#16)).map (seen 2) = some (0#16, false, true, false, 2#16) := by decide
theorem test_sra : (after 0xDAB4#16 (two 0#16 0x8001#16)).map (seen 2) = some (0xF800#16, true, false, false, 2#16) := by decide
theorem test_sra_same_register : (after 0xC0BF#16 (setup 1#16 [(0, 0x8000#16)] (false, true, true))).map (seen 0) = some (0xFFFF#16, true, false, false, 2#16) := by decide
theorem test_in : (after 0xC4C0#16 ((setup 1#16 [] (true, false, true)).setSwitches [⟨0xA5#8, 0xC3#8⟩])).map (seen 4) = some (0xA5C3#16, true, false, true, 2#16) := by decide
theorem test_in_next_setting :
    ((after 0xC4C0#16 ((setup 1#16 [] (true, false, true)).setSwitches [⟨0#8, 1#8⟩, ⟨0#8, 2#8⟩])).map fun t => (t.readReg 4, t.inputs))
      = some (1#16, [⟨0#8, 2#8⟩]) := by decide
theorem test_out :
    ((after 0xD0D0#16 { setup 1#16 [(2, 0x1A0F#16)] (true, false, true) with out := 7#16, outTrace := [7#16] }).map
      fun t => (t.out, t.outTrace, t.display, t.flags.s, t.pc))
      = some (0x1A0F#16, [7#16, 0x1A0F#16], some [1#4, 0xA#4, 0#4, 0xF#4], true, 2#16) := by decide
theorem test_halt :
    ((after 0xC0F0#16 { State.reset with pc := 7#16 }).map fun t => (t.halted, t.pc, step t)) = some (true, 7#16, .fault .halted) := by
  rfl
theorem test_ld_last_word :
    (after 0x197F#16 { setup 1#16 [(1, 0x0F80#16)] (true, false, true) with dmem := [(4095, 0x1111#16)] }).map (seen 3)
      = some (0x1111#16, true, false, true, 2#16) := by decide
theorem test_ld_wraps_and_refuses :
    (after 0x1902#16 { setup 1#16 [(1, 0xFFFF#16)] (true, false, true) with dmem := [(1, 0x2222#16)] }).map (seen 3)
      = some (0x2222#16, true, false, true, 2#16)
    ∧ refusal 0x1901#16 (setup 1#16 [(1, 0x0FFF#16)] (true, false, true)) = some .dataAddressOutOfRange
    ∧ refusal 0x19FF#16 (setup 1#16 [(1, 0#16)] (true, false, true)) = some .dataAddressOutOfRange := by decide
theorem test_st :
    ((after 0x420C#16 (setup 1#16 [(0, 0x8008#16), (2, 0x14#16)] (true, false, true))).map fun t => (t.dmem, t.pc))
      = some ([(32, 0x8008#16)], 2#16) := by decide
theorem test_st_keeps_the_form :
    ((after 0x420C#16 { setup 1#16 [(0, 0#16), (2, 0x14#16)] (true, false, true) with dmem := [(3, 1#16), (32, 5#16)] }).map State.dmem)
      = some [(3, 1#16)] := by decide
theorem test_li : (after 0x8080#16 (setup 1#16 [] (true, false, true))).map (seen 0) = some (0xFF80#16, true, false, true, 2#16) := by decide
theorem test_b : (after 0xA080#16 (setup 200#16 [] (true, false, true))).map State.pc = some 73#16 := by decide
theorem test_b_below_zero :
    (after 0xA0FD#16 (setup 1#16 [] (true, false, true))).map (fun t => (t.pc, step t)) = some (0xFFFF#16, .refused .fetchOutOfRange) := by
  rfl
theorem test_be :
    (after 0xB801#16 (setup 4#16 [] (false, true, false))).map State.pc = some 6#16
    ∧ (after 0xB801#16 (setup 4#16 [] (false, false, false))).map State.pc = some 5#16 := by decide
theorem test_blt :
    (after 0xB902#16 (setup 5#16 [] (false, false, true))).map State.pc = some 8#16
    ∧ (after 0xB902#16 (setup 5#16 [] (true, false, true))).map State.pc = some 6#16 := by decide
theorem test_ble :
    (after 0xBA03#16 (setup 10#16 [] (false, true, true))).map State.pc = some 14#16
    ∧ (after 0xBA03#16 (setup 10#16 [] (true, false, true))).map State.pc = some 11#16 := by decide
theorem test_bne :
    (after 0xBBFD#16 (setup 5#16 [] (false, false, false))).map State.pc = some 3#16
    ∧ (after 0xBBFD#16 (setup 5#16 [] (false, true, false))).map State.pc = some 6#16 := by decide

/-- 10_state.md R39; 95_test_vectors.md E3. -/
theorem test_reset : State.reset.pc = 1#16 ∧ State.reset.halted = false ∧ State.reset.outTrace = [] ∧ State.reset.display = none := by decide

/-- An empty instruction memory holds LD r0, 0(r0) everywhere (43_load_store.md R151, the word 0000; log entry 22). -/
theorem test_reset_steps : State.reset.fetchInstr = .ok (.ld 0 0 0#8) := by decide

/-- 60_exceptions.md R181, R183; 95_test_vectors.md section 2.7 and P6: the spec's reasons in their order. -/
theorem test_spec_refusals :
    ((State.reset.withFetchWord 16 0xD0D0).specRefusal = some .unwrittenRegisterRead)
    ∧ ((State.reset.withFetchWord 16 0xB801).specRefusal = some .unwrittenFlagRead)
    ∧ ((State.reset.withFetchWord 16 0xC0E0).specRefusal = some .reservedEncoding)
    ∧ ((State.reset.withFetchWord 16 0xBF00).specRefusal = some .contestedEncoding)
    ∧ (((setup 1#16 [(2, 0x1000#16)] (true, false, true)).withFetchWord 16 0x4A00).specRefusal = some .unwrittenRegisterRead)
    ∧ (((setup 1#16 [(1, 0#16)] (true, false, true)).withFetchWord 16 0x19FF).specRefusal = some .dataAddressOutOfRange)
    ∧ ((setup 4096#16 [] (true, false, true)).specRefusal = some .fetchOutOfRange)
    ∧ ((State.reset.withFetchWord 16 0xC0F0).specRefusal = none) := by decide

/-! A witness for the hypotheses of each statement that has any. -/

/-- Two written registers, the flags written, a word placed at address 4095, where the machine stands. -/
def atTop (w : Word) : State := (setup 4095#16 [(2, 0x0F80#16), (3, 5#16)] (false, false, true)).withFetchWord 16 w.toNat

theorem witness_DecodeOfEncode : (Instr.sra 7 7 15).wf = true ∧ (Instr.bne 0x80#8).wf = true := by decide
theorem witness_DecodedIsWellFormed : decode 0xFFBF#16 = .ok (.sra 7 7 15) := by decide
theorem witness_OtherCondValuesAreRefused :
    (atTop 0xBC00#16).halted = false ∧ (atTop 0xBC00#16).pc.toNat < 4096
    ∧ (atTop 0xBC00#16).imem.read (atTop 0xBC00#16).pc.toNat = formatI 0b111#3 0b100#3 0#8
    ∧ (atTop 0xBEFF#16).imem.read (atTop 0xBEFF#16).pc.toNat = formatI 0b111#3 0b110#3 0xFF#8
    ∧ (atTop 0xBFFF#16).imem.read (atTop 0xBFFF#16).pc.toNat = formatI 0b111#3 0b111#3 0xFF#8
    ∧ ({ bneCond := 0b111#3, srcSel := .rs, shiftV := false } : Config.Params).bneCond = 0b111#3 := by decide
theorem witness_UnusedFieldsAreIgnored : (atTop 0#16).regWritten 3 = true ∧ (2 : RegNum) ≠ 3 := by decide
theorem witness_StepFunction :
    (atTop 0#16).halt.halted = true ∧ (setup 4096#16 [] (true, false, true)).halted = false
    ∧ 4096 ≤ (setup 4096#16 [] (true, false, true)).pc.toNat ∧ (atTop 0#16).halted = false ∧ (atTop 0#16).pc.toNat < 4096
    ∧ decode ((atTop 0xC0E0#16).imem.read (atTop 0xC0E0#16).pc.toNat) = .error .reserved
    ∧ decode ((atTop 0xBF00#16).imem.read (atTop 0xBF00#16).pc.toNat) = .error .contested
    ∧ decode ((atTop 0xA0FF#16).imem.read (atTop 0xA0FF#16).pc.toNat) = .ok (.b 0xFF#8) := by decide
theorem witness_StepRunsDecodedInstruction :
    (atTop 0xDA8F#16).halted = false ∧ (atTop 0xDA8F#16).pc.toNat < 4096 ∧ (Instr.sll 2 3 15).wf = true
    ∧ decode ((atTop 0xDA8F#16).imem.read (atTop 0xDA8F#16).pc.toNat) = .ok (.sll 2 3 15) := by decide
theorem witness_PlacedWordIsRun : (atTop 0#16).pc.toNat < 4096 ∧ decode 0xC0F0#16 = .ok .halt := by decide
theorem witness_RunningStepStopsOnlyAsSpecified :
    (atTop 0#16).halted = false
    ∧ (setup 4096#16 [] (true, false, true)).specRefusal = some .fetchOutOfRange
    ∧ (atTop 0xC0E0#16).specRefusal = some .reservedEncoding
    ∧ (atTop 0xBF00#16).specRefusal = some .contestedEncoding
    ∧ ((setup 1#16 [(1, 0x0FFF#16)] (true, false, true)).withFetchWord 16 0x1901).specRefusal = some .dataAddressOutOfRange
    ∧ ((setup 1#16 [(1, 0x0FFF#16)] (true, false, true)).withFetchWord 16 0x1900).specRefusal = none
    ∧ (State.reset.withFetchWord 16 0xBB00).specRefusal = some .unwrittenFlagRead
    ∧ (State.reset.withFetchWord 16 0x0000).specRefusal = some .unwrittenRegisterRead
    ∧ (State.reset.withFetchWord 16 0x00FF).specRefusal = some .unwrittenRegisterRead := by decide
theorem witness_EveryInstructionCompletes :
    (Instr.ld 0 2 0x7F#8).dataOutOfRange (atTop 0#16) = false ∧ (Instr.st 0 2 0x7F#8).dataOutOfRange (atTop 0#16) = false
    ∧ (Instr.be 0#8).dataOutOfRange State.reset = false := by decide
theorem witness_LaunchStartsAsSpecified :
    (List.replicate 4096 0xC0F0#16 : List Word).length = 4096 ∧ (Instr.out 0).regsRead ≠ [] ∧ (Instr.be 0#8).readsFlags = true :=
  ⟨List.length_replicate, by decide, by decide⟩
theorem witness_results :
    (two 0x8000#16 1#16).regWritten 2 = true ∧ (two 0x8000#16 1#16).regWritten 3 = true ∧ (two 0x8000#16 1#16).flagsWritten = true := by decide
theorem witness_FlagFunctions :
    (Instr.add 2 3).readsUnwritten (two 0x8000#16 0xFFFF#16) = false ∧ (Instr.cmp 2 3).readsUnwritten (two 0x8000#16 1#16) = false
    ∧ (∃ t, exec (.add 2 3) (two 0x8000#16 0xFFFF#16) = .next t) ∧ (∃ t, exec (.addi 2 3 8#4) (two 0#16 0x8000#16) = .next t)
    ∧ (∃ t, exec (.sub 2 3) (two 0#16 0x8000#16) = .next t) ∧ (∃ t, exec (.cmp 2 3) (two 0x8000#16 1#16) = .next t)
    ∧ (∃ t, exec (.sll 2 3 1) (two 0#16 0x4000#16) = .next t) :=
  ⟨by decide, by decide, ⟨_, rfl⟩, ⟨_, rfl⟩, ⟨_, rfl⟩, ⟨_, rfl⟩, ⟨_, rfl⟩⟩
theorem witness_InResult : (State.reset.setSwitches [⟨0xA5#8, 0xC3#8⟩]).inputs = ⟨0xA5#8, 0xC3#8⟩ :: [] := by decide
theorem witness_LoadResult :
    (atTop 0#16).regWritten 2 = true ∧ ((atTop 0#16).readReg 2 + (0x7F#8).signExtend 16).toNat = 4095
    ∧ (setup 1#16 [(2, 0x0F81#16)] (true, false, true)).regWritten 2 = true
    ∧ ((setup 1#16 [(2, 0x0F81#16)] (true, false, true)).readReg 2 + (0x7F#8).signExtend 16).toNat = 4096 := by decide
theorem witness_StoreResult :
    (two 0x0F80#16 5#16).regWritten 2 = true ∧ (two 0x0F80#16 5#16).regWritten 3 = true
    ∧ ((two 0x0F80#16 5#16).readReg 2 + (0x7F#8).signExtend 16).toNat = 4095
    ∧ ((two 0x0F81#16 5#16).readReg 2 + (0x7F#8).signExtend 16).toNat = 4096 := by decide
theorem witness_EffectiveAddressRange :
    (Instr.ld 3 2 0x7F#8).readsUnwritten (two 0x0F80#16 5#16) = false ∧ (Instr.st 3 2 0x7F#8).readsUnwritten (two 0x0F81#16 5#16) = false
    ∧ (((two 0x0F80#16 5#16).readReg 2).toNat + (0x7F#8).toInt) % 65536 = 4095
    ∧ (((two 0x0F81#16 5#16).readReg 2).toNat + (0x7F#8).toInt) % 65536 = 4096 := by decide
theorem witness_DataMemoryPrimitives :
    (4095#16).toNat < 4096 ∧ 4096 ≤ (4096#16).toNat ∧ (4094#16 : Word) ≠ 4095#16 := by decide
theorem witness_LoadSeesLastStore :
    (∃ t u, exec (.st 3 2 0x7F#8) (two 0x0F80#16 5#16) = .next t ∧ exec (.ld 2 2 0x7F#8) t = .next u)
    ∧ (∃ t u, exec (.st 3 2 0x7F#8) (two 0x0F80#16 5#16) = .next t ∧ exec (.ld 2 2 0x7E#8) t = .next u) :=
  ⟨⟨_, _, rfl, rfl⟩, ⟨_, _, rfl, rfl⟩⟩
theorem witness_CanonicalMemoriesAreEqualData : Memory.wf 4096 [(0, 1#16), (4095, 0xFFFF#16)] = true := by decide
theorem witness_BranchResult :
    (setup 4095#16 [] (true, false, true)).halted = false
    ∧ 4096 ≤ ((setup 4095#16 [] (true, false, true)).branchTarget 0#8).toNat := by decide
theorem witness_BranchesAfterCompare :
    (two 0x8000#16 1#16).regWritten 2 = true ∧ (two 0x8000#16 1#16).regWritten 3 = true
    ∧ (∃ t, exec (.cmp 2 3) (two 0x8000#16 1#16) = .next t ∧ t.flags.v = true)
    ∧ (∃ t, exec (.sub 2 3) (two 3#16 5#16) = .next t)
    ∧ ((Instr.mov 2 3).writesFlags = true ∧ (Instr.mov 2 3).regWritten = some 2
      ∧ (Instr.mov 2 3).readsUnwritten (two 0#16 0x8001#16) = false
      ∧ ∃ t, exec (.mov 2 3) (two 0#16 0x8001#16) = .next t ∧ t.flags.v = false)
    ∧ ((Instr.add 2 3).readsUnwritten (two 0x8000#16 0x8000#16) = false
      ∧ ∃ t, exec (.add 2 3) (two 0x8000#16 0x8000#16) = .next t ∧ t.flags.v = true) :=
  ⟨by decide, by decide, ⟨_, rfl, by decide⟩, ⟨_, rfl⟩, ⟨by decide, by decide, by decide, ⟨_, rfl, by decide⟩⟩,
    by decide, ⟨_, rfl, by decide⟩⟩
theorem witness_AdvanceOfPc :
    (∃ t, exec .halt (atTop 0#16) = .next t) ∧ (∃ t, exec (.bne 0x80#8) (atTop 0#16) = .next t)
    ∧ (∃ t, exec (.ld 3 2 0x7F#8) (atTop 0#16) = .next t) :=
  ⟨⟨_, rfl⟩, ⟨_, rfl⟩, ⟨_, rfl⟩⟩
theorem witness_frames :
    (∃ t, exec (.sra 2 3 15) (atTop 0#16) = .next t) ∧ (∃ t, exec (.cmp 2 3) (atTop 0#16) = .next t)
    ∧ (∃ t, exec (.ld 3 2 0x7F#8) (atTop 0#16) = .next t) ∧ (∃ t, exec (.inp 3) (atTop 0#16) = .next t)
    ∧ (∃ t, exec (.st 3 2 0x7F#8) (atTop 0#16) = .next t ∧ (atTop 0#16).effAddr 2 0x7F#8 = 0x0FFF#16)
    ∧ (∃ t, exec (.out 3) (atTop 0#16) = .next t) ∧ (∃ t, exec .halt (atTop 0#16) = .next t)
    ∧ (∃ t, exec (.be 0#8) (atTop 0#16) = .next t) :=
  ⟨⟨_, rfl⟩, ⟨_, rfl⟩, ⟨_, rfl⟩, ⟨_, rfl⟩, ⟨_, rfl, by decide⟩, ⟨_, rfl⟩, ⟨_, rfl⟩, ⟨_, rfl⟩⟩
theorem witness_ChangeNamesItsInstruction :
    (∃ t, step (atTop 0xDA00#16) = .next t ∧ t.readReg 2 ≠ (atTop 0xDA00#16).readReg 2 ∧ t.flags ≠ (atTop 0xDA00#16).flags)
    ∧ (∃ t, step (atTop 0x5A7F#16) = .next t ∧ t.dmem ≠ (atTop 0x5A7F#16).dmem)
    ∧ (∃ t, step (atTop 0xD8D0#16) = .next t ∧ t.out ≠ (atTop 0xD8D0#16).out)
    ∧ (∃ t, step (atTop 0xC0F0#16) = .next t ∧ t.halted ≠ (atTop 0xC0F0#16).halted) :=
  ⟨⟨_, rfl, by decide, fun h => absurd (congrArg Flags.v h) (by decide)⟩, ⟨_, rfl, by decide⟩, ⟨_, rfl, by decide⟩, ⟨_, rfl, by decide⟩⟩
theorem witness_WritesAreRecorded : ∃ t, exec (.mov 0 3) (atTop 0#16) = .next t := ⟨_, rfl⟩
/-- One step of LI, which is no flag writer. -/
theorem witness_FlagsPersist :
    (∃ t, core.run 1 (atTop 0x8701#16) = .next t)
    ∧ ∀ (j : Nat) (u : State) (i : Instr), j < 1 → core.run j (atTop 0x8701#16) = .next u → u.fetchInstr = .ok i → i.writesFlags = false := by
  refine ⟨⟨_, rfl⟩, fun j u i hj hu hi => ?_⟩
  obtain rfl : j = 0 := by omega
  cases hu
  have h : (atTop 0x8701#16).fetchInstr = .ok (.li 7 1#8) := by decide
  cases h.symm.trans hi
  rfl
theorem witness_InstructionMemoryNeverChanges : ∃ t, core.run 2 ((atTop 0xC0F0#16).withFetchWord 16 0xA0FF) = .next t := ⟨_, rfl⟩
theorem witness_HaltEndsTheRun : ∃ t, step (atTop 0xC0F0#16) = .next t ∧ t.final = true := ⟨_, rfl, by decide⟩
theorem witness_StepKeepsConsistent : State.reset.Consistent ∧ ∃ t, step State.reset = .next t :=
  ⟨⟨by decide, by decide, by decide, (fun _ h => by cases h), (fun h => by cases h)⟩, ⟨_, rfl⟩⟩
/-- A machine whose registers, condition codes and latch differ from those after reset, and an LI to run. -/
theorem witness_ResetChoicesUnobservable :
    let s := State.reset.withFetchWord 16 0x8001
    let t : State := { s with regs := Vector.replicate 8 0xFFFF#16, flags := ⟨true, false, true, true⟩, out := 9#16 }
    s.AgreeOnWritten t ∧ s.admitted = true ∧ ∃ s', step s = .next s' := by
  refine ⟨⟨rfl, rfl, rfl, rfl, rfl, rfl, rfl, rfl, rfl, by decide, ?_, ?_, ?_, ?_⟩, by decide, ⟨_, rfl⟩⟩ <;> intro h
  all_goals exact absurd h (by decide)

end Tests

end Sys2Proof
end

section
/-! What an instruction does to the state, said once as an update (`Instr.effect`, `exec_eq_next_iff`); the frames, the bookkeeping and
the invariants of 10_state.md are read off the nine updates. -/

namespace Sys2Proof

open Machine Claims

/-! ## The update an instruction makes -/

/-- The updates that instructions make of the state, the operands already read. -/
inductive Machine.Effect where
  /-- ADD, SUB, ADDI and the shifts: `rd` takes `res`, and the codes are those of `res`, V as given, C free. -/
  | arith (rd : RegNum) (res : Word) (v : Bool)
  /-- AND, OR, XOR, MOV: `rd` takes `res`, and the codes are those of `res`, V and C 0. -/
  | logic (rd : RegNum) (res : Word)
  /-- CMP: the codes alone. -/
  | compare (res : Word) (v : Bool)
  /-- LD, LI: a register alone. -/
  | load (r : RegNum) (v : Word)
  /-- IN: a register takes the switches. -/
  | input (r : RegNum)
  /-- OUT. -/
  | output (v : Word)
  /-- HALT. -/
  | halt
  /-- ST: one word of the data memory. -/
  | store (ea v : Word)
  /-- A branch, taken or not: `pc` alone. -/
  | goto (target : Word)

/-- The state after the update. -/
def Machine.Effect.apply : Effect → State → State
  | .arith rd res v, s => ((s.writeReg rd res).setFlagsFreeC res v).advance
  | .logic rd res, s => ((s.writeReg rd res).setFlagsClearC res).advance
  | .compare res v, s => (s.setFlagsFreeC res v).advance
  | .load r v, s => (s.writeReg r v).advance
  | .input r, s => (s.switchesSeen.writeReg r (switchWord s.currentSwitches)).advance
  | .output v, s => (s.output v).advance
  | .halt, s => s.halt
  | .store ea v, s => ({ s with dmem := s.dmem.write ea.toNat v } : State).advance
  | .goto target, s => s.jump target

/-- Where a conditional branch goes. -/
def Machine.State.branchDest (s : State) (taken : Bool) (d : BitVec 8) : Word :=
  if taken then s.branchTarget d else s.pc + 1#16

/-- The update an instruction makes in state `s`, if its data address is in range. -/
def Instr.effect (i : Instr) (s : State) : Effect :=
  let x := s.readReg
  match i with
  | .add rd rs => .arith rd (x rd + x rs) (addOverflow (x rd) (x rs) (x rd + x rs))
  | .sub rd rs => .arith rd (x rd - x rs) (subOverflow (x rd) (x rs) (x rd - x rs))
  | .and rd rs => .logic rd (x rd &&& x rs)
  | .or rd rs => .logic rd (x rd ||| x rs)
  | .xor rd rs => .logic rd (x rd ^^^ x rs)
  | .cmp rd rs => .compare (x rd - x rs) (subOverflow (x rd) (x rs) (x rd - x rs))
  | .mov rd rs => .logic rd (x rs)
  | .addi rd rs d =>
    let a := x (immSource params.srcSel rd rs)
    .arith rd (a + sext4 d) (addOverflow a (sext4 d) (a + sext4 d))
  | .sll rd rs n => .arith rd (shiftLeftLogical (x (immSource params.srcSel rd rs)) n) params.shiftV
  | .slr rd rs n => .arith rd (rotateLeft (x (immSource params.srcSel rd rs)) n) params.shiftV
  | .srl rd rs n => .arith rd (shiftRightLogical (x (immSource params.srcSel rd rs)) n) params.shiftV
  | .sra rd rs n => .arith rd (shiftRightArith (x (immSource params.srcSel rd rs)) n) params.shiftV
  | .inp rd => .input rd
  | .out rs => .output (x rs)
  | .halt => .halt
  | .ld ra rb d => .load ra (s.dmem.read (s.effAddr rb d).toNat)
  | .st ra rb d => .store (s.effAddr rb d) (x ra)
  | .li rb d => .load rb (sext8 d)
  | .b d => .goto (s.branchTarget d)
  | .be d => .goto (s.branchDest (condEqual s.flags) d)
  | .blt d => .goto (s.branchDest (condLess s.flags) d)
  | .ble d => .goto (s.branchDest (condLessEqual s.flags) d)
  | .bne d => .goto (s.branchDest (condNotEqual s.flags) d)

/-- With its data address in range, an instruction completes with its update. -/
theorem exec_eq_apply (i : Instr) (s : State) (h : i.dataOutOfRange s = false) :
    exec i s = .next ((i.effect s).apply s) := by
  cases i
  case ld ra rb d => exact execLd_in_range s ra rb d (by simpa [Instr.dataOutOfRange, Instr.dataAddr] using h)
  case st ra rb d => exact execSt_in_range s ra rb d (by simpa [Instr.dataOutOfRange, Instr.dataAddr] using h)
  case be d => exact branchWhen_eq _ d s
  case blt d => exact branchWhen_eq _ d s
  case ble d => exact branchWhen_eq _ d s
  case bne d => exact branchWhen_eq _ d s
  all_goals rfl

/-- With its data address out of range, an instruction is refused (20_memory.md R56). -/
theorem exec_out_of_range (i : Instr) (s : State) (h : i.dataOutOfRange s = true) :
    exec i s = .refused .dataAddressOutOfRange := by
  cases i
  case ld ra rb d => exact execLd_out_of_range s ra rb d (by simpa [Instr.dataOutOfRange, Instr.dataAddr] using h)
  case st ra rb d => exact execSt_out_of_range s ra rb d (by simpa [Instr.dataOutOfRange, Instr.dataAddr] using h)
  all_goals cases h

/-- What an instruction can do: with its data address in range, its update, and nothing otherwise. -/
theorem exec_eq_next_iff (i : Instr) (s t : State) :
    exec i s = .next t ↔ i.dataOutOfRange s = false ∧ (i.effect s).apply s = t := by
  cases h : i.dataOutOfRange s
  · simp [exec_eq_apply i s h]
  · simp [exec_out_of_range i s h]

/-! Which instruction makes an update. -/

/-- The register an update writes. -/
def Machine.Effect.regWritten : Effect → Option RegNum
  | .arith rd _ _ | .logic rd _ | .load rd _ | .input rd => some rd
  | .compare _ _ | .output _ | .halt | .store _ _ | .goto _ => none

/-- Whether an update writes the condition codes. -/
def Machine.Effect.writesFlags : Effect → Bool
  | .arith _ _ _ | .logic _ _ | .compare _ _ => true
  | .load _ _ | .input _ | .output _ | .halt | .store _ _ | .goto _ => false

theorem Instr.effect_regWritten (i : Instr) (s : State) : (i.effect s).regWritten = i.regWritten := by
  cases i <;> rfl

theorem Instr.effect_writesFlags (i : Instr) (s : State) : (i.effect s).writesFlags = i.writesFlags := by
  cases i <;> rfl

theorem Instr.eq_st_of_effect {i : Instr} {s : State} {ea v : Word} (h : i.effect s = .store ea v) :
    ∃ ra rb d, i = .st ra rb d ∧ ea = s.effAddr rb d := by
  cases i <;> simp_all [Instr.effect]

theorem Instr.eq_out_of_effect {i : Instr} {s : State} {v : Word} (h : i.effect s = .output v) : ∃ rs, i = .out rs := by
  cases i <;> simp_all [Instr.effect]

theorem Instr.eq_inp_of_effect {i : Instr} {s : State} {r : RegNum} (h : i.effect s = .input r) : i = .inp r := by
  cases i <;> simp_all [Instr.effect]

theorem Instr.eq_halt_of_effect {i : Instr} {s : State} (h : i.effect s = .halt) : i = .halt := by
  cases i <;> simp_all [Instr.effect]

/-- A store in range is to a word of the data memory. -/
theorem Instr.store_in_range {i : Instr} {s : State} {ea v : Word} (h : i.effect s = .store ea v)
    (hr : i.dataOutOfRange s = false) : ea.toNat < Config.dmemWords := by
  obtain ⟨ra, rb, d, rfl, rfl⟩ := Instr.eq_st_of_effect h
  simpa [Instr.dataOutOfRange, Instr.dataAddr] using hr

/-! ## What an update leaves unchanged -/

theorem Machine.State.regWritten_writeReg (s : State) (q r : RegNum) (v : Word) :
    (s.writeReg q v).regWritten r = (s.regWritten r || decide (q = r)) := by
  by_cases h : r = q
  · simp [h]
  · simp [State.regWritten_writeReg_ne s v h, Ne.symm h]

theorem Machine.Effect.apply_readReg (e : Effect) (s : State) {r : RegNum} (h : e.regWritten ≠ some r) :
    (e.apply s).readReg r = s.readReg r := by
  have ne : ∀ {q}, e.regWritten = some q → r ≠ q := fun hq e' => h (e' ▸ hq)
  cases e with
  | arith | logic | load | input => simp [Effect.apply, State.readReg_writeReg_ne _ _ (ne rfl)]
  | compare | output | halt | store | goto => rfl

theorem Machine.Effect.apply_regWritten (e : Effect) (s : State) (r : RegNum) :
    (e.apply s).regWritten r = (s.regWritten r || decide (e.regWritten = some r)) := by
  cases e with
  | arith | logic | load | input => simp [Effect.apply, Effect.regWritten, State.regWritten_writeReg]
  | compare | output | halt | store | goto => exact (Bool.or_false _).symm

theorem Machine.Effect.apply_flagsWritten (e : Effect) (s : State) :
    (e.apply s).flagsWritten = (s.flagsWritten || e.writesFlags) := by
  cases e <;> simp [Effect.apply, Effect.writesFlags]

theorem Machine.Effect.apply_flags (e : Effect) (s : State) (h : e.writesFlags = false) :
    (e.apply s).flags = s.flags := by
  cases e with
  | arith | logic | compare => cases h
  | load | input | output | halt | store | goto => simp [Effect.apply]

@[simp] theorem Machine.Effect.apply_imem (e : Effect) (s : State) : (e.apply s).imem = s.imem := by
  cases e <;> simp [Effect.apply]

/-! ## The frames of an executed instruction -/

section Frames

variable {i : Instr} {s t : State} (h : exec i s = .next t)
include h

theorem exec_imem : t.imem = s.imem := by
  obtain ⟨-, rfl⟩ := (exec_eq_next_iff i s t).1 h
  simp

theorem exec_readReg {r : RegNum} (hr : i.regWritten ≠ some r) : t.readReg r = s.readReg r := by
  obtain ⟨-, rfl⟩ := (exec_eq_next_iff i s t).1 h
  exact Effect.apply_readReg _ s (by rwa [Instr.effect_regWritten])

theorem exec_regWritten (r : RegNum) : t.regWritten r = (s.regWritten r || decide (i.regWritten = some r)) := by
  obtain ⟨-, rfl⟩ := (exec_eq_next_iff i s t).1 h
  rw [Effect.apply_regWritten, Instr.effect_regWritten]

theorem exec_regSame {r : RegNum} (hr : i.regWritten ≠ some r) : RegSame s t r :=
  ⟨exec_readReg h hr, by simp [exec_regWritten h, hr]⟩

theorem exec_flagsWritten : t.flagsWritten = (s.flagsWritten || i.writesFlags) := by
  obtain ⟨-, rfl⟩ := (exec_eq_next_iff i s t).1 h
  rw [Effect.apply_flagsWritten, Instr.effect_writesFlags]

theorem exec_allCodesSame (hw : i.writesFlags = false) : AllCodesSame s t := by
  refine ⟨?_, by simp [exec_flagsWritten h, hw]⟩
  obtain ⟨-, rfl⟩ := (exec_eq_next_iff i s t).1 h
  exact Effect.apply_flags _ s (by rwa [Instr.effect_writesFlags])

theorem exec_dmem (hi : ∀ ra rb d, i ≠ .st ra rb d) : t.dmem = s.dmem := by
  obtain ⟨-, rfl⟩ := (exec_eq_next_iff i s t).1 h
  cases he : i.effect s with
  | store =>
    obtain ⟨ra, rb, d, hst, -⟩ := Instr.eq_st_of_effect he
    exact absurd hst (hi ra rb d)
  | _ => simp [Effect.apply]

theorem exec_outputSame (hi : ∀ rs, i ≠ .out rs) : OutputSame s t := by
  obtain ⟨-, rfl⟩ := (exec_eq_next_iff i s t).1 h
  cases he : i.effect s with
  | output =>
    obtain ⟨rs, hout⟩ := Instr.eq_out_of_effect he
    exact absurd hout (hi rs)
  | _ => simp [OutputSame, Effect.apply]

theorem exec_halted (hi : i ≠ .halt) : t.halted = s.halted := by
  obtain ⟨-, rfl⟩ := (exec_eq_next_iff i s t).1 h
  cases he : i.effect s with
  | halt => exact absurd (Instr.eq_halt_of_effect he) hi
  | _ => simp [Effect.apply]

theorem exec_inputs (hi : ∀ r, i ≠ .inp r) : t.inputs = s.inputs := by
  obtain ⟨-, rfl⟩ := (exec_eq_next_iff i s t).1 h
  cases he : i.effect s with
  | input r => exact absurd (Instr.eq_inp_of_effect he) (hi r)
  | _ => simp [Effect.apply]

/-- The twelve flag writers touch no memory, no output and nothing of the launch. -/
theorem exec_flagWriter_frame (hw : i.writesFlags = true) : DataSame s t ∧ OutputSame s t ∧ LaunchSame s t := by
  have hst : ∀ ra rb d, i ≠ .st ra rb d := by rintro _ _ _ rfl; cases hw
  have hout : ∀ rs, i ≠ .out rs := by rintro _ rfl; cases hw
  have hhalt : i ≠ .halt := by rintro rfl; cases hw
  have hinp : ∀ r, i ≠ .inp r := by rintro _ rfl; cases hw
  exact ⟨fun a => by rw [exec_dmem h hst], exec_outputSame h hout, exec_imem h, exec_halted h hhalt, exec_inputs h hinp⟩

end Frames

/-- Settles O47: the eleven write Rd and the codes, and a flag writer touches nothing else. -/
theorem operationFrame : Obligations.OperationFrame := by
  intro rd rs d4 n i s t hi h
  have hi' : i.regWritten = some rd ∧ i.writesFlags = true := by fin_cases hi <;> exact ⟨rfl, rfl⟩
  obtain ⟨hr, hw⟩ := hi'
  exact ⟨fun r hne => exec_regSame h (by simpa [hr] using hne.symm), exec_flagWriter_frame h hw⟩

/-- Settles O48: CMP is a flag writer that writes no register. -/
theorem compareFrame : Obligations.CompareFrame :=
  fun _ _ _ _ h => ⟨fun _ => exec_regSame h (by simp [Instr.regWritten]), exec_flagWriter_frame h rfl⟩

/-- Settles O49: LD, LI and IN write one register, no code, and are none of ST, OUT, HALT. -/
theorem loadAndInputFrame : Obligations.LoadAndInputFrame := by
  intro r0 rb d8 i s t hi h
  have hr : i.regWritten = some r0 := by fin_cases hi <;> rfl
  have hw : i.writesFlags = false := by fin_cases hi <;> rfl
  have hst : ∀ ra rb d, i ≠ .st ra rb d := by fin_cases hi <;> simp
  have hout : ∀ rs, i ≠ .out rs := by fin_cases hi <;> simp
  have hhalt : i ≠ .halt := by fin_cases hi <;> simp
  have hinp : i ≠ .inp r0 → ∀ r, i ≠ .inp r := by fin_cases hi <;> simp
  exact ⟨fun r hne => exec_regSame h (by simpa [hr] using hne.symm), exec_allCodesSame h hw,
    fun a => by rw [exec_dmem h hst], exec_outputSame h hout, exec_imem h, exec_halted h hhalt,
    fun hne => exec_inputs h (hinp hne)⟩

/-- Settles O50: the store is one write of the data memory, at the effective address. -/
theorem storeFrame : Obligations.StoreFrame := by
  rintro ra rb d8 s t _ h rfl
  refine ⟨fun r => exec_regSame h (by simp [Instr.regWritten]), exec_allCodesSame h rfl, exec_outputSame h (by simp),
    ⟨exec_imem h, exec_halted h (by simp), exec_inputs h (by simp)⟩, fun a ha => ?_⟩
  obtain ⟨-, rfl⟩ := (exec_eq_next_iff _ s t).1 h
  exact Memory.read_write_ne s.dmem _ ha

/-- Settles O51: OUT, HALT and the branches write no register and no code, and are neither ST nor IN. -/
theorem outputHaltBranchFrame : Obligations.OutputHaltBranchFrame := by
  intro rs d8 i s t hi h
  have hr : i.regWritten = none := by fin_cases hi <;> rfl
  have hw : i.writesFlags = false := by fin_cases hi <;> rfl
  have hst : ∀ ra rb d, i ≠ .st ra rb d := by fin_cases hi <;> simp
  have hinp : ∀ r, i ≠ .inp r := by fin_cases hi <;> simp
  have hout : i ≠ .out rs → ∀ r, i ≠ .out r := by fin_cases hi <;> simp
  exact ⟨fun r => exec_regSame h (by simp [hr]), exec_allCodesSame h hw, fun a => by rw [exec_dmem h hst], exec_imem h,
    exec_inputs h hinp, fun hne => exec_outputSame h (hout hne), exec_halted h⟩

/-- Settles O46: the update of each instruction advances `pc`, but for the branches' own target and HALT. -/
theorem advanceOfPc : Obligations.AdvanceOfPc := by
  intro i s t h
  obtain ⟨-, rfl⟩ := (exec_eq_next_iff i s t).1 h
  refine ⟨?_, by rintro rfl; rfl⟩
  cases i with
  | inp rd => simp [Instr.effect, Effect.apply]
  | _ => rfl

/-- Settles O53, from the bookkeeping of an update. -/
theorem writesAreRecorded : Obligations.WritesAreRecorded :=
  fun _ _ _ h => ⟨exec_regWritten h, exec_flagsWritten h⟩

/-! ## The step -/

theorem step_of_halted {s : State} (h : s.halted = true) : step s = .fault .halted := by simp [step, h]

theorem step_of_fetchInstr_error {s : State} {r : Refusal} (h : s.halted = false) (hf : s.fetchInstr = .error r) :
    step s = .refused r := by simp [step, h, hf]

theorem step_of_fetchInstr_ok {s : State} {i : Instr} (h : s.halted = false) (hf : s.fetchInstr = .ok i) :
    step s = exec i s := by simp [step, h, hf]

theorem Machine.State.fetchInstr_out_of_range {s : State} (h : ¬ s.pc.toNat < Config.imemWords) :
    s.fetchInstr = .error .fetchOutOfRange := by simp [State.fetchInstr, s.fetch_out_of_range h]

theorem Machine.State.fetchInstr_of_decode_error {s : State} {e : DecodeError} (h : s.pc.toNat < Config.imemWords)
    (hd : decode (s.imem.read s.pc.toNat) = .error e) : s.fetchInstr = .error (decodeRefusal e) := by
  simp [State.fetchInstr, s.fetch_in_range h, hd]

/-- What is fetched depends on `pc` and the instruction memory alone. -/
theorem Machine.State.fetchInstr_congr {s t : State} (hpc : s.pc = t.pc) (him : s.imem = t.imem) :
    s.fetchInstr = t.fetchInstr := by simp [State.fetchInstr, State.fetch, hpc, him]

/-- Settles O9: the fetched instruction is the decoded word. -/
theorem stepRunsDecodedInstruction : Obligations.StepRunsDecodedInstruction :=
  fun s i hh hpc _ hd => step_of_fetchInstr_ok hh ((s.fetchInstr_eq_ok_iff i).2 ⟨hpc, hd⟩)

/-- Settles O8, from the answer of the fetch in each of the four parts. -/
theorem stepFunction : Obligations.StepFunction := by
  refine fun s => ⟨step_of_halted, fun hh => ⟨fun hpc => ?_, fun hpc => ⟨fun hd => ?_, fun hd => ?_, fun i hd => ?_⟩⟩⟩
  · exact step_of_fetchInstr_error hh (State.fetchInstr_out_of_range (Nat.not_lt.2 hpc))
  · exact step_of_fetchInstr_error hh (State.fetchInstr_of_decode_error hpc hd)
  · exact step_of_fetchInstr_error hh (State.fetchInstr_of_decode_error hpc hd)
  · exact step_of_fetchInstr_ok hh ((s.fetchInstr_eq_ok_iff i).2 ⟨hpc, hd⟩)

/-- Settles O52: each clause is a frame of the executed instruction, read backwards. -/
theorem changeNamesItsInstruction : Obligations.ChangeNamesItsInstruction := by
  intro s t h
  obtain ⟨-, i, hf, h⟩ := (step_eq_next_iff s t).1 h
  refine ⟨i, hf, fun r hne => ?_, fun hne => ?_, fun hne => ?_, fun hne => ?_, fun hne => ?_⟩
  · by_contra hr
    exact hne (exec_readReg h hr)
  · by_contra hw
    exact hne (exec_allCodesSame h (Bool.eq_false_of_not_eq_true hw)).1
  · by_contra hst
    exact hne (exec_dmem h fun ra rb d e => hst ⟨ra, rb, d, e⟩)
  · by_contra hout
    obtain ⟨hlatch, htrace⟩ := exec_outputSame h fun rs e => hout ⟨rs, e⟩
    exact hne.elim (· hlatch) (· htrace)
  · by_contra hhalt
    exact hne (exec_halted h hhalt)

/-- A run starts with its first step. -/
theorem run_succ {s u : State} (h : step s = .next u) (k : Nat) : core.run (k + 1) s = core.run k u := by
  have hcore : core.step s = .next u := h
  simp only [Host.Core.run, hcore]

/-- A run of more than no steps that ends in a state has a first step. -/
theorem run_succ_eq_next_iff (k : Nat) (s t : State) :
    core.run (k + 1) s = .next t ↔ ∃ u, step s = .next u ∧ core.run k u = .next t := by
  refine ⟨fun h => ?_, fun ⟨u, hu, h⟩ => (run_succ hu k).trans h⟩
  cases hstep : core.step s with
  | next u => exact ⟨u, hstep, (run_succ hstep k).symm.trans h⟩
  | fault | refused => simp [Host.Core.run, hstep] at h

/-- Settles O54, by induction on the number of steps: the first step keeps the codes, and so does the rest of the run. -/
theorem flagsPersist : Obligations.FlagsPersist := by
  intro k
  induction k with
  | zero => exact fun s t h _ => by cases h; exact ⟨rfl, rfl, rfl, rfl⟩
  | succ k ih =>
    intro s t h hw
    obtain ⟨u, hsu, hut⟩ := (run_succ_eq_next_iff k s t).1 h
    obtain ⟨-, i, hf, hi⟩ := (step_eq_next_iff s u).1 hsu
    obtain ⟨hflags, hwritten⟩ := exec_allCodesSame hi (hw 0 s i k.succ_pos rfl hf)
    have hrest : CodesSame u t :=
      ih u t hut fun j v i' hj hv => hw (j + 1) v i' (Nat.succ_lt_succ hj) ((run_succ hsu j).trans hv)
    simpa only [CodesSame, hflags, hwritten] using hrest

/-! ## Consistency -/

/-- Settles O14: the memories are filled from at most 4096 words each; the rest is as after reset. -/
theorem launchIsConsistent : Obligations.LaunchIsConsistent := fun prog data _ =>
  { imem_wf := Memory.wf_ofWordsFrom _ (List.length_take_le _ prog)
    dmem_wf := Memory.wf_ofWordsFrom _ (List.length_take_le _ data)
    sign_zero := rfl
    latch := fun _ h => nomatch h
    halted_at_halt := fun h => nomatch h }

/-- Settles O15: the reset state is a launch that supplies nothing. -/
theorem resetIsConsistent : Obligations.ResetIsConsistent := launchIsConsistent [] [] []

theorem Machine.Effect.apply_sign_zero (e : Effect) {s : State} (h : (s.flags.s && s.flags.z) = false) :
    ((e.apply s).flags.s && (e.apply s).flags.z) = false := by
  cases e with
  | arith | logic | compare => exact resultFlags_sign_zero _ _ _
  | load | input | output | halt | store | goto => simpa [Effect.apply] using h

theorem Machine.Effect.apply_latch (e : Effect) {s : State} (h : ∀ v, s.outTrace.getLast? = some v → s.out = v) (v : Word)
    (hv : (e.apply s).outTrace.getLast? = some v) : (e.apply s).out = v := by
  cases e with
  | output => simpa [Effect.apply] using hv
  | arith | logic | compare | load | input | halt | store | goto => simpa [Effect.apply] using h v (by simpa [Effect.apply] using hv)

/-- An instruction keeps the data memory canonical: the one that writes it has its address in range. -/
theorem exec_dmem_wf {i : Instr} {s t : State} (h : exec i s = .next t) (hs : s.dmem.wf Config.dmemWords = true) :
    t.dmem.wf Config.dmemWords = true := by
  obtain ⟨hr, rfl⟩ := (exec_eq_next_iff i s t).1 h
  cases he : i.effect s with
  | store ea v => exact Memory.wf_write s.dmem _ v hs (Instr.store_in_range he hr)
  | _ => simpa [Effect.apply] using hs

/-- A machine that halts stands at the HALT it ran. -/
theorem step_halted_at_halt {s t : State} (h : step s = .next t) (ht : t.halted = true) : t.fetchInstr = .ok .halt := by
  obtain ⟨hs, i, hf, h⟩ := (step_eq_next_iff s t).1 h
  obtain rfl : i = .halt := by
    by_contra hi
    simp [exec_halted h hi, hs] at ht
  obtain ⟨-, rfl⟩ := (exec_eq_next_iff _ s t).1 h
  exact hf

/-- Settles O57, clause by clause from the update the step makes. -/
theorem stepKeepsConsistent : Obligations.StepKeepsConsistent := by
  intro s t hs hstep
  obtain ⟨-, i, -, h⟩ := (step_eq_next_iff s t).1 hstep
  obtain ⟨-, ht⟩ := (exec_eq_next_iff i s t).1 h
  exact
    { imem_wf := exec_imem h ▸ hs.imem_wf
      dmem_wf := exec_dmem_wf h hs.dmem_wf
      sign_zero := ht ▸ (i.effect s).apply_sign_zero hs.sign_zero
      latch := ht ▸ (i.effect s).apply_latch hs.latch
      halted_at_halt := step_halted_at_halt hstep }

/-! ## What the reset values cannot change -/

namespace Machine.State.AgreeOnWritten

variable {s t : State} (h : s.AgreeOnWritten t)
include h

theorem advance : s.advance.AgreeOnWritten t.advance :=
  { h with pc := congrArg (· + 1#16) h.pc }

theorem jump (target : Word) : (s.jump target).AgreeOnWritten (t.jump target) :=
  { h with pc := rfl }

theorem halt : s.halt.AgreeOnWritten t.halt :=
  { h with halted := rfl }

theorem output (v : Word) : (s.output v).AgreeOnWritten (t.output v) :=
  { h with outTrace := congrArg (· ++ [v]) h.outTrace, latch := fun _ => rfl }

theorem store (a : Nat) (v : Word) :
    ({ s with dmem := s.dmem.write a v } : State).AgreeOnWritten { t with dmem := t.dmem.write a v } :=
  { h with dmem := congrArg (Memory.write · a v) h.dmem }

theorem setFlagsClearC (res : Word) : (s.setFlagsClearC res).AgreeOnWritten (t.setFlagsClearC res) :=
  { h with flagsWritten := rfl, sign := fun _ => rfl, zero := fun _ => rfl, overflow := fun _ => rfl }

theorem setFlagsFreeC (res : Word) (v : Bool) : (s.setFlagsFreeC res v).AgreeOnWritten (t.setFlagsFreeC res v) :=
  { h with
    flagsWritten := rfl, sign := fun _ => rfl, zero := fun _ => rfl, overflow := fun _ => rfl
    draws := congrArg (· + 1) h.draws }

theorem writeReg (q : RegNum) (v : Word) : (s.writeReg q v).AgreeOnWritten (t.writeReg q v) :=
  { h with
    regsWritten := congrArg (Vector.set · q.val true) h.regsWritten
    regs := fun r hr => by
      by_cases e : r = q
      · simp [e]
      · rw [regWritten_writeReg_ne s v e] at hr
        rw [readReg_writeReg_ne s v e, readReg_writeReg_ne t v e, h.regs r hr] }

theorem switchesSeen : s.switchesSeen.AgreeOnWritten t.switchesSeen := by
  unfold State.switchesSeen
  rw [h.inputs]
  split
  · exact { h with inputs := rfl, draws := congrArg (· + 1) h.draws }
  · exact { h with inputs := rfl }

theorem currentSwitches : s.currentSwitches = t.currentSwitches := by
  simp only [State.currentSwitches, h.inputs, h.draws]

/-- One update of two states that agree leaves them agreeing: it writes what it is given. -/
theorem apply (e : Effect) : (e.apply s).AgreeOnWritten (e.apply t) := by
  cases e with
  | arith rd res v => exact ((h.writeReg rd res).setFlagsFreeC res v).advance
  | logic rd res => exact ((h.writeReg rd res).setFlagsClearC res).advance
  | compare res v => exact (h.setFlagsFreeC res v).advance
  | load r v => exact (h.writeReg r v).advance
  | input r =>
    simp only [Effect.apply, h.currentSwitches]
    exact (h.switchesSeen.writeReg r _).advance
  | output v => exact (h.output v).advance
  | halt => exact h.halt
  | store ea v => exact (h.store ea.toNat v).advance
  | goto target => exact h.jump target

/-- The registers read by an instruction that reads no unwritten one are the same in both states. -/
theorem readReg_of_regsRead {i : Instr} (hr : i.readsUnwritten s = false) : ∀ r ∈ i.regsRead, s.readReg r = t.readReg r := by
  simp only [Instr.readsUnwritten, List.any_eq_false, Bool.not_eq_true', Bool.not_eq_false] at hr
  exact fun r hm => h.regs r (hr r hm)

theorem branchTarget_eq (d : BitVec 8) : s.branchTarget d = t.branchTarget d := by
  simp only [branchTarget, h.pc]

theorem branchDest_eq {taken taken' : Bool} (hc : taken = taken') (d : BitVec 8) :
    s.branchDest taken d = t.branchDest taken' d := by
  simp only [branchDest, h.branchTarget_eq, h.pc, hc]

/-- An instruction that reads nothing unwritten makes the same update in both states: the update is a function of what it reads. -/
theorem effect_eq {i : Instr} (hr : i.readsUnwritten s = false) (hf : (i.readsFlags && !s.flagsWritten) = false) :
    i.effect s = i.effect t := by
  have hreg := h.readReg_of_regsRead hr
  cases i with
  | be | blt | ble | bne =>
    have hw : s.flagsWritten = true := by simpa [Instr.readsFlags] using hf
    refine congrArg Effect.goto (h.branchDest_eq ?_ _)
    simp only [condEqual, condLess, condLessEqual, condNotEqual, h.sign hw, h.zero hw, h.overflow hw]
  | b d => exact congrArg Effect.goto (h.branchTarget_eq d)
  | ld | st => simp_all [Instr.effect, Instr.regsRead, effAddr, h.dmem]
  | _ => simp_all [Instr.effect, Instr.regsRead]

theorem dataOutOfRange_eq {i : Instr} (hr : i.readsUnwritten s = false) : i.dataOutOfRange s = i.dataOutOfRange t := by
  have hreg := h.readReg_of_regsRead hr
  cases i with
  | ld | st => simp_all [Instr.dataOutOfRange, Instr.dataAddr, Instr.regsRead, effAddr]
  | _ => rfl

end Machine.State.AgreeOnWritten

theorem Instr.specRefusal_eq_none_iff (i : Instr) (s : State) : i.specRefusal s = none ↔
    i.readsUnwritten s = false ∧ (i.readsFlags && !s.flagsWritten) = false ∧ i.dataOutOfRange s = false := by
  unfold Instr.specRefusal
  split <;> simp_all

/-- Where an instruction is fetched, the spec's refusal of the step is that of the instruction. -/
theorem Machine.State.specRefusal_of_fetchInstr_ok {s : State} {i : Instr} (hf : s.fetchInstr = .ok i) :
    s.specRefusal = i.specRefusal s := by
  obtain ⟨hpc, hd⟩ := (s.fetchInstr_eq_ok_iff i).1 hf
  simp [State.specRefusal, s.fetch_in_range hpc, hd]

/-- Settles O58: both states fetch the same instruction, it makes the same update in both, and an update keeps the agreement. -/
theorem resetChoicesUnobservable : Obligations.ResetChoicesUnobservable := by
  intro s t s' hst hadm hstep
  obtain ⟨hh, i, hf, h⟩ := (step_eq_next_iff s s').1 hstep
  obtain ⟨-, rfl⟩ := (exec_eq_next_iff i s s').1 h
  have hspec : s.specRefusal = none := by simpa [State.admitted, hh] using hadm
  rw [State.specRefusal_of_fetchInstr_ok hf] at hspec
  obtain ⟨hregs, hflags, hrange⟩ := (i.specRefusal_eq_none_iff s).1 hspec
  have hft : t.fetchInstr = .ok i := State.fetchInstr_congr hst.pc hst.imem ▸ hf
  have ht : exec i t = .next ((i.effect t).apply t) := exec_eq_apply i t (hst.dataOutOfRange_eq hregs ▸ hrange)
  refine ⟨_, (step_of_fetchInstr_ok (hst.halted ▸ hh) hft).trans ht, ?_⟩
  rw [← hst.effect_eq hregs hflags]
  exact hst.apply _

end Sys2Proof
end

section
/-! The data memory and the instruction memory (20_memory.md): the effective address, the primitives of R57, a store seen by the load
after it, and that a canonical memory is determined by what it reads as. -/

namespace Sys2Proof

open Machine

/-! ## Canonical memories -/

theorem Machine.Memory.wfFrom_cons_iff {n lo a : Nat} {v : Word} {m : Memory} :
    Memory.wfFrom n lo ((a, v) :: m) = true ↔ lo ≤ a ∧ a < n ∧ v ≠ Memory.unlisted ∧ Memory.wfFrom n (a + 1) m = true := by
  simp [Memory.wfFrom, and_assoc]

@[simp] theorem Machine.Memory.read_cons_same (a : Nat) (v : Word) (m : Memory) : Memory.read ((a, v) :: m) a = v := by
  simp [Memory.read]

theorem Machine.Memory.read_cons_ne {a j : Nat} (v : Word) (m : Memory) (h : j ≠ a) :
    Memory.read ((a, v) :: m) j = Memory.read m j := by simp [Memory.read, h]

/-- A canonical memory that lists something at `a` starts at or before `a`. -/
theorem Machine.Memory.exists_head_le {n lo a : Nat} {k : Memory} (hk : Memory.wfFrom n lo k = true)
    (ha : k.read a ≠ Memory.unlisted) : ∃ b x l, k = (b, x) :: l ∧ b ≤ a := by
  cases k with
  | nil => exact absurd rfl ha
  | cons p l =>
    obtain ⟨b, x⟩ := p
    obtain ⟨-, hb, hx, hl⟩ := Memory.wfFrom_cons_iff.1 hk
    refine ⟨b, x, l, rfl, Nat.le_of_not_lt fun hlt => ha ?_⟩
    exact Memory.read_below _ (Memory.wfFrom_cons_iff.2 ⟨Nat.le_refl b, hb, hx, hl⟩) hlt

/-- Canonical memories are determined by what they read as: their heads stand at the same address, hold the same word, and the tails
read alike, for both tails list nothing up to that address. -/
theorem Machine.Memory.eq_of_read_eq {n lo : Nat} {m k : Memory} (hm : Memory.wfFrom n lo m = true) (hk : Memory.wfFrom n lo k = true)
    (hread : ∀ a < n, m.read a = k.read a) : m = k := by
  induction m generalizing lo k with
  | nil =>
    cases k with
    | nil => rfl
    | cons p l =>
      obtain ⟨-, hb, hx, -⟩ := Memory.wfFrom_cons_iff.1 hk
      exact absurd ((hread _ hb).trans (Memory.read_cons_same _ _ l)).symm hx
  | cons p m ih =>
    obtain ⟨a, v⟩ := p
    obtain ⟨-, ha, hv, hmt⟩ := Memory.wfFrom_cons_iff.1 hm
    obtain ⟨b, x, l, rfl, hba⟩ := Memory.exists_head_le (a := a) hk (by simpa [← hread a ha] using hv)
    obtain ⟨-, hb, hx, hlt⟩ := Memory.wfFrom_cons_iff.1 hk
    obtain ⟨_, _, _, heq, hab⟩ := Memory.exists_head_le (a := b) hm (by simpa [hread b hb] using hx)
    cases heq
    obtain rfl : a = b := Nat.le_antisymm hab hba
    obtain rfl : v = x := by simpa using hread a ha
    have htail : ∀ j < n, Memory.read m j = Memory.read l j := fun j hj => by
      by_cases e : j = a
      · have hja : j < a + 1 := by omega
        rw [Memory.read_below m hmt hja, Memory.read_below l hlt hja]
      · rw [← Memory.read_cons_ne v m e, hread j hj, Memory.read_cons_ne v l e]
    rw [ih hmt hlt htail]

/-- Settles O38, from the canonical form at bound 0. -/
theorem canonicalMemoriesAreEqualData : Obligations.CanonicalMemoriesAreEqualData :=
  fun _ _ _ hm hk hread => Memory.eq_of_read_eq hm hk hread

/-! ## The data memory -/

/-- Distinct words are distinct addresses. -/
theorem word_toNat_ne {a b : Word} (h : a ≠ b) : a.toNat ≠ b.toNat := fun e => h (BitVec.eq_of_toNat_eq e)

/-- Settles O36, from the two answers of each primitive and the reads after a write. -/
theorem dataMemoryPrimitives : Obligations.DataMemoryPrimitives := by
  refine fun s addr v => ⟨fun h => ?_, fun h => ?_⟩
  · exact ⟨s.memRead_out_of_range (Nat.not_lt.2 h), s.memWrite_out_of_range v (Nat.not_lt.2 h)⟩
  · refine ⟨s.memRead_in_range h, _, s.memWrite_in_range v h, ?_, fun a ha => ?_, rfl⟩
    · exact (State.memRead_eq_ok_iff _ addr v).2 ⟨h, Memory.read_write_same s.dmem _ v⟩
    · simp only [State.memRead, Memory.read_write_ne s.dmem v (word_toNat_ne ha)]

/-- The effective address is the sum modulo 2^16, the displacement signed (20_memory.md R56). -/
theorem Machine.State.effAddr_toNat (s : State) (rb : RegNum) (d : BitVec 8) :
    ((s.effAddr rb d).toNat : Int) = ((s.readReg rb).toNat + d.toInt) % 65536 := by
  simp only [State.effAddr, sext8, BitVec.signExtend, BitVec.toNat_add, BitVec.toNat_ofInt]
  omega

/-- LD and ST are out of range exactly at the effective addresses of 4096 and above. -/
theorem Instr.dataOutOfRange_of_ld_or_st {i : Instr} {ra rb : RegNum} {d : BitVec 8} (hi : i = .ld ra rb d ∨ i = .st ra rb d)
    (s : State) : i.dataOutOfRange s = decide (4096 ≤ (s.effAddr rb d).toNat) := by
  rcases hi with rfl | rfl <;> rfl

/-- Settles O35: the effective address decides whether the instruction is out of range, and that decides how it ends. -/
theorem effectiveAddressRange : Obligations.EffectiveAddressRange := by
  intro ra rb d8 s i hi _
  have hea := s.effAddr_toNat rb d8
  have hrange := Instr.dataOutOfRange_of_ld_or_st hi s
  refine ⟨hea, fun hge => ?_, fun hlt => ?_⟩
  · exact exec_out_of_range i s (hrange.trans (decide_eq_true (by omega)))
  · exact ⟨_, exec_eq_apply i s (hrange.trans (decide_eq_false (by omega)))⟩

/-- Settles O37: the load reads the data memory that the store wrote, at the same address or at another one. -/
theorem loadSeesLastStore : Obligations.LoadSeesLastStore := by
  intro ra rb rc re d8 e8 s t u hst hld
  obtain ⟨-, hdmem⟩ := (execSt_eq_next_iff s t ra rb d8).1 hst
  obtain ⟨-, rfl⟩ := (execLd_eq_next_iff t u rc re e8).1 hld
  have hload : t.dmem = s.dmem.write (s.effAddr rb d8).toNat (s.readReg ra) := by simp [hdmem]
  rw [State.advance_readReg, State.readReg_writeReg_same, hload]
  split
  case isTrue heq => rw [heq, Memory.read_write_same]
  case isFalse hne => exact Memory.read_write_ne s.dmem _ (word_toNat_ne hne)

/-! ## The instruction memory -/

/-- The word placed for the fetch is what the fetch finds. -/
theorem Machine.State.withFetchWord_read_pc (s : State) (w : Word) :
    (s.withFetchWord 16 w.toNat).imem.read s.pc.toNat = w := by
  have hw : BitVec.ofNat 16 (w.toNat % 2 ^ 16) = w := by simp [Nat.mod_eq_of_lt w.isLt]
  simp only [State.withFetchWord, hw, Memory.read_write_same]

/-- Settles O10: the fetch finds the placed word, and the placing writes that one word. -/
theorem placedWordIsRun : Obligations.PlacedWordIsRun := by
  refine fun s w i hpc hd => ⟨step_of_fetchInstr_ok rfl ?_, fun a ha => Memory.read_write_ne s.imem _ ha, rfl⟩
  exact (State.fetchInstr_eq_ok_iff _ i).2 ⟨hpc, (congrArg decode (s.withFetchWord_read_pc w)).trans hd⟩

theorem step_imem {s t : State} (h : step s = .next t) : t.imem = s.imem := by
  obtain ⟨-, i, -, hi⟩ := (step_eq_next_iff s t).1 h
  exact exec_imem hi

/-- Settles O55, by induction on the number of steps: no step writes the instruction memory. -/
theorem instructionMemoryNeverChanges : Obligations.InstructionMemoryNeverChanges := by
  intro k
  induction k with
  | zero => exact fun s t h => by cases h; rfl
  | succ k ih =>
    intro s t h
    obtain ⟨u, hsu, hut⟩ := (run_succ_eq_next_iff k s t).1 h
    exact (ih u t hut).trans (step_imem hsu)

end Sys2Proof
end

section
/-! The encoding of 30_encoding.md: the decoder inverts the encoder, a word's masked bits are its opcode fields, and the decoder's
verdict is read off the opcode fields alone. -/

namespace Sys2Proof

open Machine Claims

/-! ## Decode after encode -/

/-- A count that fits survives the 4-bit field (41_shift.md R130). -/
theorem toNat_ofNat_of_countFits {n : Nat} (h : countFits n = true) : (BitVec.ofNat 4 n).toNat = n := by
  rw [BitVec.toNat_ofNat]
  exact Nat.mod_eq_of_lt (of_decide_eq_true h)

theorem countFits_toNat (d : BitVec 4) : countFits d.toNat = true := decide_eq_true d.isLt

/-- Settles O1: the formats give back their fields, and a shift count of a well-formed instruction survives its field. -/
theorem decodeOfEncode : Obligations.DecodeOfEncode := by
  intro i hi
  cases i
  case sll | slr | srl | sra =>
    simp [decode, encode, encodeWith, decodeFormatR, toNat_ofNat_of_countFits hi]
  case li | b | be | blt | ble | bne =>
    simp [decode, encode, encodeWith, decodeFormatI, decodeFormatC, params]
  all_goals simp [decode, encode, encodeWith, decodeFormatR]

/-! ## What each format decodes to -/

theorem decodeFormatR_wf {rs rd : RegNum} {op3 d4 : BitVec 4} {i : Instr} (h : decodeFormatR rs rd op3 d4 = .ok i) :
    i.wf = true := by
  unfold decodeFormatR at h
  split at h <;> cases h
  case h_9 | h_10 | h_11 | h_12 => exact countFits_toNat d4
  all_goals rfl

theorem decodeFormatI_wf {p : Config.Params} {op2 field : BitVec 3} {d8 : BitVec 8} {i : Instr}
    (h : decodeFormatI p op2 field d8 = .ok i) : i.wf = true := by
  unfold decodeFormatI decodeFormatC at h
  repeat' split at h
  all_goals cases h <;> rfl

theorem decodeWith_wf {p : Config.Params} {w : Word} {i : Instr} (h : decodeWith p w = .ok i) : i.wf = true := by
  unfold decodeWith at h
  split at h
  · cases h; rfl
  · cases h; rfl
  · exact decodeFormatR_wf h
  · exact decodeFormatI_wf h

/-- Settles O2: what the decoder yields is well formed, so O1 applies to it. -/
theorem decodedIsWellFormed : Obligations.DecodedIsWellFormed :=
  fun _ i h => ⟨decodeWith_wf h, (decodeOfEncode i (decodeWith_wf h)).trans h.symm⟩

/-- Settles O7, by evaluation of the decoder on the seven words. -/
theorem sampleWordsDecode : Obligations.SampleWordsDecode := by
  unfold Obligations.SampleWordsDecode
  decide

/-! ## The masks of the tables R89 to R91 show the opcode fields -/

/-- A mask made of fields masks field by field. -/
theorem append_and_append {k l m n : Nat} (a a' : BitVec k) (b b' : BitVec l) (c c' : BitVec m) (d d' : BitVec n) :
    (a ++ b ++ c ++ d) &&& (a' ++ b' ++ c' ++ d') = (a &&& a') ++ (b &&& b') ++ (c &&& c') ++ (d &&& d') := by
  simp only [BitVec.and_append]

theorem mask_formatR_iff (w : Word) (op3 : BitVec 4) :
    w &&& 0xC0F0#16 = formatR 0 0 op3 0#4 ↔ opField w = 0b11#2 ∧ functionField w = op3 := by
  refine ⟨fun h => by simpa using fields_of_formatR_mask h, fun ⟨hop, hfn⟩ => ?_⟩
  rw [word_eq_formatR hop, hfn]
  have hhead : (0b11#2 ++ sourceField w) &&& (BitVec.allOnes 2 ++ 0#3) = 0b11#2 ++ 0#3 := by
    rw [BitVec.and_append, BitVec.and_allOnes, BitVec.and_zero]
  exact (append_and_append _ (BitVec.allOnes 2 ++ 0#3) _ 0#3 _ (.allOnes 4) _ 0#4).trans
    (by simp [formatR, hhead, -BitVec.reduceAllOnes])

theorem mask_formatM_iff (w : Word) (op1 : BitVec 2) :
    w &&& 0xC000#16 = formatM op1 0 0 0#8 ↔ opField w = op1 := by
  refine ⟨fun h => by simpa using field_of_formatM_mask h, fun hop => ?_⟩
  rw [word_eq_formatM w, hop]
  exact (append_and_append _ (.allOnes 2) _ 0#3 _ 0#3 _ 0#8).trans (by simp [formatM, -BitVec.reduceAllOnes])

theorem mask_formatI_iff (w : Word) (op2 : BitVec 3) :
    w &&& 0xF800#16 = formatI op2 0#3 0#8 ↔ opField w = 0b10#2 ∧ sourceField w = op2 := by
  refine ⟨fun h => by simpa using fields_of_formatI_mask h, fun ⟨hop, hsrc⟩ => ?_⟩
  rw [word_eq_formatI hop, hsrc]
  exact (append_and_append _ (.allOnes 2) _ (.allOnes 3) _ 0#3 _ 0#8).trans (by simp [formatI, -BitVec.reduceAllOnes])

theorem mask_formatC_iff (w : Word) (op2 cond : BitVec 3) :
    w &&& 0xFF00#16 = formatI op2 cond 0#8 ↔ opField w = 0b10#2 ∧ sourceField w = op2 ∧ destField w = cond := by
  refine ⟨fun h => by simpa using fields_of_formatC_mask h, fun ⟨hop, hsrc, hdst⟩ => ?_⟩
  rw [word_eq_formatI hop, hsrc, hdst]
  exact (append_and_append _ (.allOnes 2) _ (.allOnes 3) _ (.allOnes 3) _ 0#8).trans (by simp [formatI, -BitVec.reduceAllOnes])

/-! ## The fields as numbers (30_encoding.md R81) -/

theorem opField_toNat (w : Word) : (opField w).toNat = w.toNat / 16384 % 4 := by
  simp [opField, Nat.shiftRight_eq_div_pow]

theorem sourceField_toNat (w : Word) : (sourceField w).toNat = w.toNat / 2048 % 8 := by
  simp [sourceField, Nat.shiftRight_eq_div_pow]

theorem destField_toNat (w : Word) : (destField w).toNat = w.toNat / 256 % 8 := by
  simp [destField, Nat.shiftRight_eq_div_pow]

/-- Format C by number: op1 and op2 are 10 and 111 exactly when the upper byte is 0xB8 and the condition. -/
theorem fields_formatC_iff (w : Word) (cond : BitVec 3) :
    opField w = 0b10#2 ∧ sourceField w = 0b111#3 ∧ destField w = cond ↔ w.toNat / 256 = 0xB8 + cond.toNat := by
  have hw := w.isLt
  have hc := cond.isLt
  simp only [← BitVec.toNat_inj, opField_toNat, sourceField_toNat, destField_toNat, BitVec.toNat_ofNat]
  omega

/-! ## Rows that share a mask -/

theorem mask_formatI_mem_iff (w : Word) (l : List (BitVec 3)) :
    w &&& 0xF800#16 ∈ l.map (formatI · 0#3 0#8) ↔ opField w = 0b10#2 ∧ sourceField w ∈ l := by
  simp [eq_comm (b := w &&& 0xF800#16), mask_formatI_iff, and_comm]

theorem mask_formatC_mem_iff (w : Word) (op2 : BitVec 3) (l : List (BitVec 3)) :
    w &&& 0xFF00#16 ∈ l.map (formatI op2 · 0#8) ↔ opField w = 0b10#2 ∧ sourceField w = op2 ∧ destField w ∈ l := by
  simp [eq_comm (b := w &&& 0xFF00#16), mask_formatC_iff, and_comm, and_left_comm]

/-! ## A decoded instruction's row -/

open Laws.EncodingMatchesRow (row)

theorem decodeFormatR_row {rs rd : RegNum} {op3 d4 : BitVec 4} {i : Instr} (h : decodeFormatR rs rd op3 d4 = .ok i) :
    row i = (0xC0F0#16, formatR 0 0 op3 0#4) := by
  unfold decodeFormatR at h
  split at h <;> cases h <;> rfl

theorem decodeFormatC_row {cond : BitVec 3} {d8 : BitVec 8} {i : Instr} (h : decodeFormatC params cond d8 = .ok i) :
    row i = (0xFF00#16, formatI 0b111#3 cond 0#8) := by
  simp only [decodeFormatC, params] at h
  split at h <;> cases h <;> rfl

theorem decodeFormatI_row {op2 field : BitVec 3} {d8 : BitVec 8} {i : Instr} (h : decodeFormatI params op2 field d8 = .ok i) :
    row i = (0xF800#16, formatI op2 0#3 0#8) ∨ op2 = 0b111#3 ∧ row i = (0xFF00#16, formatI 0b111#3 field 0#8) := by
  unfold decodeFormatI at h
  split at h
  · cases h; exact .inl rfl
  · cases h; exact .inl rfl
  · exact .inr ⟨rfl, decodeFormatC_row h⟩
  · cases h

/-- The word of a decoded instruction matches the instruction's row. -/
theorem mask_eq_row_of_decode {w : Word} {i : Instr} (h : decode w = .ok i) : w &&& (row i).1 = (row i).2 := by
  unfold decode decodeWith at h
  split at h
  case h_1 hop => cases h; exact (mask_formatM_iff w 0b00#2).2 hop
  case h_2 hop => cases h; exact (mask_formatM_iff w 0b01#2).2 hop
  case h_3 hop =>
    rw [decodeFormatR_row h]
    exact (mask_formatR_iff w _).2 ⟨hop, rfl⟩
  case h_4 h0 h1 h3 =>
    have hop : opField w = 0b10#2 := by
      generalize opField w = op at h0 h1 h3
      revert op; decide
    obtain hrow | ⟨hsrc, hrow⟩ := decodeFormatI_row h <;> rw [hrow]
    · exact (mask_formatI_iff w _).2 ⟨hop, rfl⟩
    · exact (mask_formatC_iff w _ _).2 ⟨hop, hsrc, rfl⟩

/-! ## The decoder on the words of a row -/

theorem decode_of_opField_load {w : Word} (h : opField w = 0b00#2) :
    decode w = .ok (.ld (sourceField w).toFin (destField w).toFin (d8Field w)) := by
  simp [decode, decodeWith, h]

theorem decode_of_opField_store {w : Word} (h : opField w = 0b01#2) :
    decode w = .ok (.st (sourceField w).toFin (destField w).toFin (d8Field w)) := by
  simp [decode, decodeWith, h]

theorem decode_of_opField_formatR {w : Word} (h : opField w = 0b11#2) :
    decode w = decodeFormatR (sourceField w).toFin (destField w).toFin (functionField w) (d4Field w) := by
  simp [decode, decodeWith, h]

theorem decode_of_opField_formatI {w : Word} (h : opField w = 0b10#2) :
    decode w = decodeFormatI params (sourceField w) (destField w) (d8Field w) := by
  simp [decode, decodeWith, h]

theorem decode_of_mask_formatR {w m : Word} (h : w &&& 0xC0F0#16 = m) (hm : opField m = 0b11#2) :
    decode w = decodeFormatR (sourceField w).toFin (destField w).toFin (functionField m) (d4Field w) := by
  obtain ⟨hop, hfn⟩ := fields_of_formatR_mask h
  rw [decode_of_opField_formatR (hop.trans hm), hfn]

theorem decode_of_mask_formatI {w m : Word} (h : w &&& 0xF800#16 = m) (hm : opField m = 0b10#2) :
    decode w = decodeFormatI params (sourceField m) (destField w) (d8Field w) := by
  obtain ⟨hop, hsrc⟩ := fields_of_formatI_mask h
  rw [decode_of_opField_formatI (hop.trans hm), hsrc]

theorem decode_of_mask_formatC {w m : Word} (h : w &&& 0xFF00#16 = m) (hm : opField m = 0b10#2) :
    decode w = decodeFormatI params (sourceField m) (destField m) (d8Field w) := by
  obtain ⟨hop, hsrc, hdst⟩ := fields_of_formatC_mask h
  rw [decode_of_opField_formatI (hop.trans hm), hsrc, hdst]

/-! ## The refused words (30_encoding.md R93) -/

/-- The values of a field, listed for a case split. -/
theorem mem_map_ofNat_range {n : Nat} (x : BitVec n) : x ∈ (List.range (2 ^ n)).map (BitVec.ofNat n) :=
  List.mem_map.2 ⟨x.toNat, List.mem_range.2 x.isLt, BitVec.ofNat_toNat n x ▸ BitVec.setWidth_eq x⟩

theorem decodeFormatR_eq_error_iff (rs rd : RegNum) (op3 d4 : BitVec 4) (e : DecodeError) :
    decodeFormatR rs rd op3 d4 = .error e ↔ op3 = 0b1110#4 ∧ e = .reserved := by
  have hop3 : op3 ∈ (List.range 16).map (BitVec.ofNat 4) := mem_map_ofNat_range op3
  fin_cases hop3 <;> simp [decodeFormatR, eq_comm]

theorem decodeFormatC_eq_error_iff (cond : BitVec 3) (d8 : BitVec 8) (e : DecodeError) :
    decodeFormatC params cond d8 = .error e ↔
      cond ∈ [0b100#3, 0b101#3, 0b110#3] ∧ e = .reserved ∨ cond = 0b111#3 ∧ e = .contested := by
  have hcond : cond ∈ (List.range 8).map (BitVec.ofNat 3) := mem_map_ofNat_range cond
  fin_cases hcond <;> simp [decodeFormatC, params, eq_comm]

theorem decodeFormatI_eq_error_iff (op2 field : BitVec 3) (d8 : BitVec 8) (e : DecodeError) :
    decodeFormatI params op2 field d8 = .error e ↔
      op2 ∈ [0b001#3, 0b010#3, 0b011#3, 0b101#3, 0b110#3] ∧ e = .reserved
      ∨ op2 = 0b111#3 ∧ decodeFormatC params field d8 = .error e := by
  have hop2 : op2 ∈ (List.range 8).map (BitVec.ofNat 3) := mem_map_ofNat_range op2
  fin_cases hop2 <;> simp [decodeFormatI, eq_comm]

theorem decode_eq_error_iff (w : Word) (e : DecodeError) :
    decode w = .error e ↔
      opField w = 0b11#2 ∧ decodeFormatR (sourceField w).toFin (destField w).toFin (functionField w) (d4Field w) = .error e
      ∨ opField w = 0b10#2 ∧ decodeFormatI params (sourceField w) (destField w) (d8Field w) = .error e := by
  have hop : opField w ∈ (List.range 4).map (BitVec.ofNat 2) := mem_map_ofNat_range _
  unfold decode decodeWith
  generalize opField w = op at hop
  fin_cases hop <;> simp

/-- Reserved by the opcode fields: classes (a), (b), (c). -/
theorem decode_eq_reserved_iff (w : Word) :
    decode w = .error .reserved ↔
      (opField w = 0b11#2 ∧ functionField w = 0b1110#4)
      ∨ (opField w = 0b10#2 ∧ sourceField w ∈ [0b001#3, 0b010#3, 0b011#3, 0b101#3, 0b110#3])
      ∨ (opField w = 0b10#2 ∧ sourceField w = 0b111#3 ∧ destField w ∈ [0b100#3, 0b101#3, 0b110#3]) := by
  simp [decode_eq_error_iff, decodeFormatR_eq_error_iff, decodeFormatI_eq_error_iff, decodeFormatC_eq_error_iff, and_or_left]

/-- Contested by the opcode fields: class (d). -/
theorem decode_eq_contested_iff (w : Word) :
    decode w = .error .contested ↔ opField w = 0b10#2 ∧ sourceField w = 0b111#3 ∧ destField w = 0b111#3 := by
  simp [decode_eq_error_iff, decodeFormatR_eq_error_iff, decodeFormatI_eq_error_iff, decodeFormatC_eq_error_iff]

/-- Settles O3: a word that matches a row has the row's opcode fields, and the word of a decoded instruction matches its row. -/
theorem maskTableSelectsInstruction : Obligations.MaskTableSelectsInstruction := by
  intro w f11 f8 d4 d8
  have hf11 : f11 = (sourceField w).toFin := Fin.ext (sourceField_toNat w).symm
  have hf8 : f8 = (destField w).toFin := Fin.ext (destField_toNat w).symm
  rw [hf11, hf8]
  refine ⟨?_, ?_, ?_, ?_, ?_, ?_, ?_, ?_, ?_, ?_, ?_, ?_, ?_, ?_, ?_, ?_, ?_, ?_, ?_, ?_, ?_, ?_, ?_, ?_, ?_⟩
  iterate 15 exact ⟨fun h => (decode_of_mask_formatR h rfl).trans rfl, mask_eq_row_of_decode⟩
  · exact ⟨fun h => decode_of_opField_load (field_of_formatM_mask h), mask_eq_row_of_decode⟩
  · exact ⟨fun h => decode_of_opField_store (field_of_formatM_mask h), mask_eq_row_of_decode⟩
  iterate 2 exact ⟨fun h => (decode_of_mask_formatI h rfl).trans rfl, mask_eq_row_of_decode⟩
  iterate 4 exact ⟨fun h => (decode_of_mask_formatC h rfl).trans rfl, mask_eq_row_of_decode⟩
  · rw [decode_eq_reserved_iff, ← mask_formatR_iff, ← mask_formatI_mem_iff, ← mask_formatC_mem_iff]
    rfl
  · rw [decode_eq_contested_iff, ← mask_formatC_iff]
    rfl

/-- A word decodes to an instruction when neither verdict refuses it. -/
theorem exists_decode_iff (w : Word) :
    (∃ i, decode w = .ok i) ↔ ¬ (decode w = .error .reserved ∨ decode w = .error .contested) := by
  cases decode w with
  | ok i => simp
  | error e => cases e <;> simp

/-- Class (c) of R93 by its fields. -/
theorem reservedCond_iff (w : Word) :
    opField w = 0b10#2 ∧ sourceField w = 0b111#3 ∧ destField w ∈ [0b100#3, 0b101#3, 0b110#3] ↔
      0xBC00 ≤ w.toNat ∧ w.toNat ≤ 0xBEFF := by
  simp only [List.mem_cons, List.not_mem_nil, or_false, and_or_left, fields_formatC_iff, BitVec.toNat_ofNat]
  omega

/-- Class (d) of R93 by its fields. -/
theorem contestedCond_iff (w : Word) :
    opField w = 0b10#2 ∧ sourceField w = 0b111#3 ∧ destField w = 0b111#3 ↔ 0xBF00 ≤ w.toNat ∧ w.toNat ≤ 0xBFFF := by
  simp only [fields_formatC_iff, BitVec.toNat_ofNat]
  omega

/-- Settles O4: the classes are the opcode fields of the two verdicts, (c) and (d) read as ranges of the upper byte. -/
theorem undefinedWordsAreTheFourClasses : Obligations.UndefinedWordsAreTheFourClasses := by
  intro w classA op2 classB classC classD
  have hA : classA ↔ opField w = 0b11#2 ∧ functionField w = 0b1110#4 := mask_formatR_iff w 0b1110#4
  have hB : classB ↔ opField w = 0b10#2 ∧ sourceField w ∈ [0b001#3, 0b010#3, 0b011#3, 0b101#3, 0b110#3] :=
    and_congr_left' (mask_formatM_iff w 0b10#2)
  have hres : decode w = .error .reserved ↔ classA ∨ classB ∨ classC :=
    (decode_eq_reserved_iff w).trans (or_congr hA.symm (or_congr hB.symm (reservedCond_iff w)))
  have hcon : decode w = .error .contested ↔ classD := (decode_eq_contested_iff w).trans (contestedCond_iff w)
  refine ⟨hres, hcon, ?_⟩
  rw [exists_decode_iff, hres, hcon, or_assoc, or_assoc]

/-! ## Fields and registers that an instruction does not read -/

@[simp] theorem Machine.State.branchTarget_writeReg (s : State) (r : RegNum) (v : Word) (d : BitVec 8) :
    (s.writeReg r v).branchTarget d = s.branchTarget d := rfl

@[simp] theorem Machine.State.branchDest_writeReg (s : State) (r : RegNum) (v : Word) (taken : Bool) (d : BitVec 8) :
    (s.writeReg r v).branchDest taken d = s.branchDest taken d := rfl

/-- A register outside `regsRead` has no part in the update. -/
theorem Instr.effect_writeReg {i : Instr} {r : RegNum} (h : r ∉ i.regsRead) (s : State) (v : Word) :
    i.effect (s.writeReg r v) = i.effect s := by
  have hread : ∀ q ∈ i.regsRead, (s.writeReg r v).readReg q = s.readReg q := fun q hq =>
    State.readReg_writeReg_ne s v fun e => h (e ▸ hq)
  cases i <;> simp_all [Instr.effect, Instr.regsRead, State.effAddr]

/-- What a flag writer leaves in its register, S, Z, V and `pc` is fixed by its update and `pc`. -/
theorem Machine.Effect.apply_writeReg {e : Effect} {rd : RegNum} (hr : e.regWritten = some rd) (hw : e.writesFlags = true)
    (s : State) (q : RegNum) (v : Word) :
    (e.apply (s.writeReg q v)).readReg rd = (e.apply s).readReg rd ∧ CodesSame (e.apply s) (e.apply (s.writeReg q v))
      ∧ (e.apply (s.writeReg q v)).pc = (e.apply s).pc := by
  cases e with
  | arith | logic => cases hr; simp [Effect.apply, CodesSame]
  | compare => cases hr
  | load | input | output | halt | store | goto => cases hw

/-- Settles O6: the decoder does not look at an unused field, and Rd is not among the registers that MOV, ADDI and the shifts read. -/
theorem unusedFieldsAreIgnored : Obligations.UnusedFieldsAreIgnored := by
  intro rs rd rs' rd' d d' f f' d8 s v
  refine ⟨?_, ?_, ?_, ?_, ?_, ?_⟩
  · intro op3 hop3
    fin_cases hop3 <;> simp [decode, decodeFormatR]
  · simp [decode, decodeFormatR]
  · simp [decode, decodeFormatR]
  · simp [decode, decodeFormatR]
  · simp [decode, decodeFormatI]
  · intro _ hne i hi
    obtain ⟨hread, hwritten, hflags, hrange⟩ : i.regsRead = [rs] ∧ i.regWritten = some rd ∧ i.writesFlags = true
        ∧ ∀ t, i.dataOutOfRange t = false := by
      fin_cases hi <;> exact ⟨rfl, rfl, rfl, fun _ => rfl⟩
    refine ⟨_, _, exec_eq_apply i s (hrange s), exec_eq_apply i (s.writeReg rd v) (hrange _), ?_⟩
    rw [Instr.effect_writeReg (by simpa [hread] using hne)]
    exact Effect.apply_writeReg (by rw [Instr.effect_regWritten, hwritten]) (by rw [Instr.effect_writesFlags, hflags]) s rd v

end Sys2Proof
end

section
/-! Arithmetic, logic, compare, move, add immediate (40_arith_logic.md): what a flag writer leaves in its register and the condition codes,
and what the bit formulas of V say about the exact integer result. -/

namespace Sys2Proof

open Machine Claims

/-! ## What a flag writer leaves (40_arith_logic.md R110, R111) -/

/-- The 16-bit result that gives S and Z, with V, of an update that writes the condition codes. -/
def Machine.Effect.codes : Effect → Option (Word × Bool)
  | .arith _ res v | .compare res v => some (res, v)
  | .logic _ res => some (res, false)
  | .load _ _ | .input _ | .output _ | .halt | .store _ _ | .goto _ => none

theorem Machine.Effect.isSome_codes (e : Effect) : e.codes.isSome = e.writesFlags := by
  cases e <;> rfl

theorem Machine.Effect.apply_codesOf {e : Effect} {res : Word} {v : Bool} (h : e.codes = some (res, v)) (s : State) :
    CodesOf (e.apply s) res v := by
  cases e with
  | arith | logic | compare => cases h; simp [Effect.apply, CodesOf, BitVec.msb_eq_getLsbD_last]
  | load | input | output | halt | store | goto => cases h

theorem Machine.Effect.apply_readReg_written {e : Effect} {rd : RegNum} {res : Word} {v : Bool} (hr : e.regWritten = some rd)
    (h : e.codes = some (res, v)) (s : State) : (e.apply s).readReg rd = res := by
  cases e with
  | arith | logic => cases hr; cases h; simp [Effect.apply]
  | compare => cases hr
  | load | input | output | halt | store | goto => cases h

theorem Machine.Effect.apply_pc_of_writesFlags {e : Effect} (hw : e.writesFlags = true) (s : State) :
    (e.apply s).pc = s.pc + 1#16 := by
  cases e with
  | arith | logic | compare => rfl
  | load | input | output | halt | store | goto => cases hw

theorem Instr.readsFlags_of_writesFlags {i : Instr} (hw : i.writesFlags = true) : i.readsFlags = false := by
  cases i with
  | be | blt | ble | bne => cases hw
  | _ => rfl

theorem Instr.dataOutOfRange_of_writesFlags {i : Instr} (hw : i.writesFlags = true) (s : State) : i.dataOutOfRange s = false := by
  cases i with
  | ld | st => cases hw
  | _ => rfl

theorem Instr.writesFlags_iff_exists_codes (i : Instr) (s : State) :
    i.writesFlags = true ↔ ∃ res v, (i.effect s).codes = some (res, v) := by
  rw [← Instr.effect_writesFlags i s, ← Effect.isSome_codes, Option.isSome_iff_exists, Prod.exists]

section Codes

variable {i : Instr} {s t : State} {res : Word} {v : Bool} (hc : (i.effect s).codes = some (res, v))
include hc

theorem exec_codesOf (h : exec i s = .next t) : CodesOf t res v := by
  obtain ⟨-, rfl⟩ := (exec_eq_next_iff i s t).1 h
  exact Effect.apply_codesOf hc s

theorem exec_result (h : exec i s = .next t) {rd : RegNum} (hr : i.regWritten = some rd) : t.readReg rd = res := by
  obtain ⟨-, rfl⟩ := (exec_eq_next_iff i s t).1 h
  exact Effect.apply_readReg_written (by rwa [Instr.effect_regWritten]) hc s

/-- A flag writer completes: its result is in its register, if it writes one, and `pc` advances. -/
theorem exists_exec_of_codes :
    ∃ t, exec i s = .next t ∧ (∀ rd, i.regWritten = some rd → t.readReg rd = res) ∧ CodesOf t res v ∧ t.pc = s.pc + 1#16 := by
  have hw := (i.writesFlags_iff_exists_codes s).2 ⟨res, v, hc⟩
  have h := exec_eq_apply i s (Instr.dataOutOfRange_of_writesFlags hw s)
  exact ⟨_, h, fun _ => exec_result hc h, exec_codesOf hc h,
    Effect.apply_pc_of_writesFlags (by rwa [Instr.effect_writesFlags]) s⟩

end Codes

/-- AND, OR, XOR and MOV also leave C = 0 (40_arith_logic.md R114 to R118). -/
theorem exists_exec_of_logic {i : Instr} {s : State} {rd : RegNum} {res : Word} (he : i.effect s = .logic rd res) :
    ∃ t, exec i s = .next t ∧ t.readReg rd = res ∧ CodesOf t res false ∧ t.flags.c = false ∧ t.pc = s.pc + 1#16 := by
  have hr : i.regWritten = some rd := by rw [← Instr.effect_regWritten i s, he]; rfl
  obtain ⟨t, h, hres, hcodes, hpc⟩ := exists_exec_of_codes (i := i) (s := s) (by rw [he]; rfl)
  refine ⟨t, h, hres rd hr, hcodes, ?_, hpc⟩
  obtain ⟨-, rfl⟩ := (exec_eq_next_iff i s t).1 h
  rw [he]
  rfl

/-! ## The spec's refusal of a flag writer -/

/-- The only refusal of a flag writer is the read of an unwritten register (40_arith_logic.md R110). -/
theorem refusedUnlessWritten_of_writesFlags {i : Instr} (hw : i.writesFlags = true) (s : State) :
    RefusedUnlessWritten i s (i.regsRead.all s.regWritten) := by
  simp only [RefusedUnlessWritten, Instr.specRefusal, Instr.readsUnwritten, Instr.readsFlags_of_writesFlags hw,
    Instr.dataOutOfRange_of_writesFlags hw, List.any_eq_not_all_not, Bool.not_not]
  cases i.regsRead.all s.regWritten <;> rfl

theorem refusedUnlessWritten_pair {i : Instr} {r q : RegNum} (hw : i.writesFlags = true) (hr : i.regsRead = [r, q]) (s : State) :
    RefusedUnlessWritten i s (s.regWritten r && s.regWritten q) := by
  simpa [hr] using refusedUnlessWritten_of_writesFlags hw s

theorem refusedUnlessWritten_single {i : Instr} {r : RegNum} (hw : i.writesFlags = true) (hr : i.regsRead = [r]) (s : State) :
    RefusedUnlessWritten i s (s.regWritten r) := by
  simpa [hr] using refusedUnlessWritten_of_writesFlags hw s

/-! ## The bit formulas of V and the exact result (40_arith_logic.md R111, R120) -/

/-- Reduction modulo 2^16 into -32768..32767 changes exactly the integers outside that range. -/
theorem bmod_ne_self_iff (x : Int) : x.bmod 65536 ≠ x ↔ x < -32768 ∨ 32767 < x := by
  rw [Int.bmod_def]
  omega

theorem signBit_eq_msb (x : Word) : x.getLsbD 15 = x.msb := (BitVec.msb_eq_getLsbD_last x).symm

theorem additionV_eq_saddOverflow (a b : Word) : additionV a b = a.saddOverflow b := by
  simp only [additionV, signBit_eq_msb, BitVec.saddOverflow_eq, bne]

theorem subtractionV_eq_ssubOverflow (a b : Word) : subtractionV a b = a.ssubOverflow b := by
  simp only [subtractionV, signBit_eq_msb, BitVec.ssubOverflow_eq]
  cases a.msb <;> cases b.msb <;> simp

/-- V of an addition is 1 exactly when the exact sum is outside -32768..32767. -/
theorem additionV_iff (a b : Word) : additionV a b = true ↔ a.toInt + b.toInt < -32768 ∨ 32767 < a.toInt + b.toInt := by
  rw [additionV_eq_saddOverflow, BitVec.saddOverflow, Bool.or_eq_true, decide_eq_true_iff, decide_eq_true_iff]
  omega

/-- V of a subtraction is 1 exactly when the exact difference is outside -32768..32767. -/
theorem subtractionV_iff (a b : Word) : subtractionV a b = true ↔ a.toInt - b.toInt < -32768 ∨ 32767 < a.toInt - b.toInt := by
  rw [subtractionV_eq_ssubOverflow, BitVec.ssubOverflow, Bool.or_eq_true, decide_eq_true_iff, decide_eq_true_iff]
  omega

theorem additionV_iff_inexact (a b : Word) : additionV a b = true ↔ (a + b).toInt ≠ a.toInt + b.toInt := by
  rw [additionV_iff, ← bmod_ne_self_iff, BitVec.toInt_add]

theorem subtractionV_iff_inexact (a b : Word) : subtractionV a b = true ↔ (a - b).toInt ≠ a.toInt - b.toInt := by
  rw [subtractionV_iff, ← bmod_ne_self_iff, BitVec.toInt_sub]

theorem add_toNat_emod (a b : Word) : ((a + b).toNat : Int) = (a.toNat + b.toNat) % 65536 := by
  simp

theorem sub_toNat_emod (a b : Word) : ((a - b).toNat : Int) = (a.toNat - b.toNat) % 65536 := by
  rw [BitVec.toNat_sub]
  omega

/-- After a subtraction S xor V is the signed comparison, also where the difference overflows (40_arith_logic.md R117). -/
theorem sign_xor_subtractionV_iff (a b : Word) :
    ((a - b).getLsbD 15 ^^ subtractionV a b) = true ↔ a.toInt < b.toInt := by
  have hsign : (a - b).getLsbD 15 = true ↔ (a.toInt - b.toInt).bmod 65536 < 0 := by
    rw [signBit_eq_msb, BitVec.msb_eq_toInt, decide_eq_true_iff, BitVec.toInt_sub]
  have ha : -32768 ≤ a.toInt ∧ a.toInt < 32768 := ⟨a.le_toInt, a.toInt_lt⟩
  have hb : -32768 ≤ b.toInt ∧ b.toInt < 32768 := ⟨b.le_toInt, b.toInt_lt⟩
  rw [Bool.xor_iff_ne, ne_eq, Bool.eq_iff_iff, hsign, subtractionV_iff, Int.bmod_def]
  omega

/-! ## The four arithmetic instructions: result and V -/

theorem codes_add (rd rs : RegNum) (s : State) : ((Instr.add rd rs).effect s).codes
    = some (s.readReg rd + s.readReg rs, additionV (s.readReg rd) (s.readReg rs)) := rfl

theorem codes_sub (rd rs : RegNum) (s : State) : ((Instr.sub rd rs).effect s).codes
    = some (s.readReg rd - s.readReg rs, subtractionV (s.readReg rd) (s.readReg rs)) := rfl

theorem codes_cmp (rd rs : RegNum) (s : State) : ((Instr.cmp rd rs).effect s).codes
    = some (s.readReg rd - s.readReg rs, subtractionV (s.readReg rd) (s.readReg rs)) := rfl

theorem codes_addi (rd rs : RegNum) (d : BitVec 4) (s : State) : ((Instr.addi rd rs d).effect s).codes
    = some (s.readReg rs + d.signExtend 16, additionV (s.readReg rs) (d.signExtend 16)) := rfl

/-! ## The eight instructions (40_arith_logic.md R112 to R119) -/

/-- Settles O16: the update of ADD is its sum with V of the addition. -/
theorem addResult : Obligations.AddResult := by
  intro rd rs d4 s
  refine ⟨by simp [decode, decodeFormatR], refusedUnlessWritten_pair rfl rfl s, fun _ _ => ?_⟩
  obtain ⟨t, h, hres, hcodes, hpc⟩ := exists_exec_of_codes (codes_add rd rs s)
  exact ⟨t, h, hres rd rfl, hcodes, hpc⟩

/-- Settles O17: the update of SUB is its difference, Rd - Rs, with V of the subtraction. -/
theorem subResult : Obligations.SubResult := by
  intro rd rs d4 s
  refine ⟨by simp [decode, decodeFormatR], refusedUnlessWritten_pair rfl rfl s, fun _ _ => ?_⟩
  obtain ⟨t, h, hres, hcodes, hpc⟩ := exists_exec_of_codes (codes_sub rd rs s)
  exact ⟨t, h, hres rd rfl, hcodes, hpc⟩

/-- Settles O18: the logic update of AND, read bit by bit. -/
theorem andResult : Obligations.AndResult := by
  intro rd rs d4 s
  refine ⟨by simp [decode, decodeFormatR], refusedUnlessWritten_pair rfl rfl s, fun _ _ => ?_⟩
  obtain ⟨t, h, hres, hcodes, hc, hpc⟩ := exists_exec_of_logic (i := .and rd rs) (s := s) rfl
  exact ⟨t, h, fun k _ => by rw [hres, BitVec.getLsbD_and], hres ▸ hcodes, hc, hpc⟩

/-- Settles O19: the logic update of OR, read bit by bit. -/
theorem orResult : Obligations.OrResult := by
  intro rd rs d4 s
  refine ⟨by simp [decode, decodeFormatR], refusedUnlessWritten_pair rfl rfl s, fun _ _ => ?_⟩
  obtain ⟨t, h, hres, hcodes, hc, hpc⟩ := exists_exec_of_logic (i := .or rd rs) (s := s) rfl
  exact ⟨t, h, fun k _ => by rw [hres, BitVec.getLsbD_or], hres ▸ hcodes, hc, hpc⟩

/-- Settles O20: the logic update of XOR, read bit by bit. -/
theorem xorResult : Obligations.XorResult := by
  intro rd rs d4 s
  refine ⟨by simp [decode, decodeFormatR], refusedUnlessWritten_pair rfl rfl s, fun _ _ => ?_⟩
  obtain ⟨t, h, hres, hcodes, hc, hpc⟩ := exists_exec_of_logic (i := .xor rd rs) (s := s) rfl
  exact ⟨t, h, fun k _ => by rw [hres, BitVec.getLsbD_xor, Bool.xor], hres ▸ hcodes, hc, hpc⟩

/-- Settles O21: the codes of CMP are those of the subtraction, whose S xor V is the signed comparison. -/
theorem cmpResult : Obligations.CmpResult := by
  intro rd rs d4 s
  refine ⟨by simp [decode, decodeFormatR], refusedUnlessWritten_pair rfl rfl s, fun _ _ => ?_⟩
  obtain ⟨t, h, -, hcodes, hpc⟩ := exists_exec_of_codes (codes_cmp rd rs s)
  have ⟨hs, hz, hv, _⟩ := hcodes
  refine ⟨t, h, fun r => exec_regSame h (by simp [Instr.regWritten]), hcodes, hz.trans sub_eq_zero, ?_, hpc⟩
  rw [hs, hv]
  exact sign_xor_subtractionV_iff _ _

/-- Settles O22: the logic update of MOV is the copy of Rs, so Rs keeps its value even where it is Rd. -/
theorem movResult : Obligations.MovResult := by
  intro rd rs d4 s
  refine ⟨by simp [decode, decodeFormatR], refusedUnlessWritten_single rfl rfl s, fun _ => ?_⟩
  obtain ⟨t, h, hres, hcodes, hc, hpc⟩ := exists_exec_of_logic (i := .mov rd rs) (s := s) rfl
  have hsrc : t.readReg rs = s.readReg rs := by
    by_cases heq : rd = rs
    · exact heq ▸ hres
    · exact exec_readReg h (by simpa [Instr.regWritten] using heq)
  exact ⟨t, h, hres, hsrc, hcodes, hc, hpc⟩

/-- Settles O23: the update of ADDI is the sum of Rs and the sign-extended d4. -/
theorem addiResult : Obligations.AddiResult := by
  intro rd rs d4 s
  refine ⟨by simp [decode, decodeFormatR], refusedUnlessWritten_single rfl rfl s, fun _ => ?_⟩
  obtain ⟨t, h, hres, hcodes, hpc⟩ := exists_exec_of_codes (codes_addi rd rs d4 s)
  exact ⟨t, h, hres rd rfl, hcodes, fun hne => exec_readReg h (by simpa [Instr.regWritten] using hne), hpc⟩

/-! ## The laws of the condition codes and of wrap-around (40_arith_logic.md R111, R120) -/

/-- Settles O24: S and Z come from the result of the update, and V is the bit formula of the four arithmetic instructions, 0 of the
other eight. -/
theorem flagFunctions : Obligations.FlagFunctions := by
  intro i s t _ h
  refine ⟨?_, ?_, ?_, ?_, ?_⟩
  · intro rd hw hr
    obtain ⟨res, v, hc⟩ := (i.writesFlags_iff_exists_codes s).1 hw
    obtain ⟨hs, hz, -, -⟩ := exec_codesOf hc h
    rw [exec_result hc h hr]
    exact ⟨hs, hz⟩
  · rintro rd rs rfl
    obtain ⟨hs, hz, -, -⟩ := exec_codesOf (codes_cmp rd rs s) h
    exact ⟨hs, hz⟩
  · intro rd rs d4 a b hi
    have hc : (i.effect s).codes = some (a + b, additionV a b) := by
      obtain ⟨rfl, rfl, rfl⟩ | ⟨rfl, rfl, rfl⟩ := hi
      · exact codes_add rd rs s
      · exact codes_addi rd rs d4 s
    obtain ⟨-, -, hv, -⟩ := exec_codesOf hc h
    exact ⟨hv, hv ▸ additionV_iff a b⟩
  · intro rd rs a b hi ha hb
    have hc : (i.effect s).codes = some (a - b, subtractionV a b) := by
      subst ha hb
      obtain rfl | rfl := hi
      · exact codes_sub rd rs s
      · exact codes_cmp rd rs s
    obtain ⟨-, -, hv, -⟩ := exec_codesOf hc h
    exact ⟨hv, hv ▸ subtractionV_iff a b⟩
  · intro rd rs n hi
    obtain ⟨res, hc⟩ : ∃ res, (i.effect s).codes = some (res, false) := by
      fin_cases hi <;> exact ⟨_, rfl⟩
    obtain ⟨-, -, hv, -⟩ := exec_codesOf hc h
    exact hv

/-- Settles O25: a sum or difference of words is the exact one reduced modulo 2^16, and V says where the reduction changes it. -/
theorem arithmeticWraps : Obligations.ArithmeticWraps := by
  intro rd rs d4 s _
  refine ⟨fun _ => ?_, fun _ => ?_, ?_⟩
  · obtain ⟨t, h, hres, ⟨-, -, hv, -⟩, -⟩ := exists_exec_of_codes (codes_add rd rs s)
    refine ⟨t, h, ?_⟩
    rw [hres rd rfl, hv]
    exact ⟨BitVec.toInt_add _ _, add_toNat_emod _ _, additionV_iff_inexact _ _⟩
  · obtain ⟨t, h, hres, ⟨-, -, hv, -⟩, -⟩ := exists_exec_of_codes (codes_sub rd rs s)
    refine ⟨t, h, ?_⟩
    rw [hres rd rfl, hv]
    exact ⟨BitVec.toInt_sub, sub_toNat_emod _ _, subtractionV_iff_inexact _ _⟩
  · obtain ⟨t, h, hres, ⟨-, -, hv, -⟩, -⟩ := exists_exec_of_codes (codes_addi rd rs d4 s)
    refine ⟨t, h, ?_⟩
    rw [hres rd rfl, hv, ← BitVec.toInt_signExtend_of_le (x := d4) (v := 16) (by decide)]
    exact ⟨BitVec.toInt_add _ _, additionV_iff_inexact _ _⟩

end Sys2Proof
end

section
/-! Shift and rotate (41_shift.md): the bits of the four shifts' results, and what the results are as numbers. -/

namespace Sys2Proof

open Machine Claims

/-! ## The bits of the results (41_shift.md R131 to R134) -/

section Bits

variable (src : Word) {n k : Nat}

theorem getLsbD_shiftLeftLogical (hk : k < 16) :
    (shiftLeftLogical src n).getLsbD k = if k < n then false else src.getLsbD (k - n) := by
  rw [shiftLeftLogical, BitVec.getLsbD_shiftLeft, decide_eq_true hk]
  by_cases h : k < n
  · simp [h]
  · simp only [h, decide_false, Bool.not_false, Bool.true_and, if_false]

theorem getLsbD_rotateLeft (hn : n < 16) (hk : k < 16) :
    (rotateLeft src n).getLsbD k = src.getLsbD ((k + 16 - n) % 16) := by
  rw [rotateLeft, BitVec.getLsbD_rotateLeft_of_le hn]
  by_cases h : k < n
  · have hwrap : (k + 16 - n) % 16 = 16 - n + k := by omega
    simp [h, hwrap]
  · have hstay : (k + 16 - n) % 16 = k - n := by omega
    simp [h, hk, hstay]

theorem getLsbD_shiftRightLogical (hn : n < 16) :
    (shiftRightLogical src n).getLsbD k = if k ≤ 15 - n then src.getLsbD (k + n) else false := by
  rw [shiftRightLogical, BitVec.getLsbD_ushiftRight, Nat.add_comm n k]
  split
  · rfl
  · exact BitVec.getLsbD_of_ge _ _ (by omega)

theorem getLsbD_shiftRightArith (hn : n < 16) (hk : k < 16) :
    (shiftRightArith src n).getLsbD k = if k ≤ 15 - n then src.getLsbD (k + n) else src.getLsbD 15 := by
  have hbound : k + n < 16 ↔ k ≤ 15 - n := by omega
  rw [shiftRightArith, BitVec.getLsbD_sshiftRight, signBit_eq_msb, Nat.add_comm n k]
  simp [hk, hbound]

end Bits

/-! ## The results as numbers -/

/-- A rotation loses no bit (41_shift.md R132): bit `k` of the source is bit `(k + n) mod 16` of the result. -/
theorem rotateLeft_eq_zero_iff (src : Word) {n : Nat} (hn : n < 16) : rotateLeft src n = 0#16 ↔ src = 0#16 := by
  refine ⟨fun h => BitVec.eq_of_getLsbD_eq fun k hk => ?_, fun h => by simp [h, rotateLeft, BitVec.rotateLeft_def]⟩
  have hsource : ((k + n) % 16 + 16 - n) % 16 = k := by omega
  have hbit := getLsbD_rotateLeft src hn (Nat.mod_lt (k + n) (by decide))
  rw [h, hsource, BitVec.getLsbD_zero] at hbit
  rw [BitVec.getLsbD_zero, hbit]

theorem toNat_shiftRightLogical (src : Word) (n : Nat) : (shiftRightLogical src n).toNat = src.toNat / 2 ^ n := by
  rw [shiftRightLogical, BitVec.toNat_ushiftRight, Nat.shiftRight_eq_div_pow]

/-- The division rounds toward minus infinity (41_shift.md R134). -/
theorem toInt_shiftRightArith (src : Word) (n : Nat) : (shiftRightArith src n).toInt = src.toInt.fdiv (2 ^ n) := by
  rw [shiftRightArith, BitVec.toInt_sshiftRight, Int.shiftRight_eq_div_pow, Int.fdiv_eq_ediv_of_nonneg _ (by positivity)]
  norm_cast

theorem signBit_shiftRightArith (src : Word) (n : Nat) : (shiftRightArith src n).getLsbD 15 = src.getLsbD 15 := by
  rw [signBit_eq_msb, signBit_eq_msb, shiftRightArith, BitVec.msb_sshiftRight]

/-! ## The four shifts: result and V (41_shift.md R130, R135) -/

theorem codes_sll (rd rs : RegNum) (n : Nat) (s : State) : ((Instr.sll rd rs n).effect s).codes
    = some (shiftLeftLogical (s.readReg rs) n, false) := rfl

theorem codes_slr (rd rs : RegNum) (n : Nat) (s : State) : ((Instr.slr rd rs n).effect s).codes
    = some (rotateLeft (s.readReg rs) n, false) := rfl

theorem codes_srl (rd rs : RegNum) (n : Nat) (s : State) : ((Instr.srl rd rs n).effect s).codes
    = some (shiftRightLogical (s.readReg rs) n, false) := rfl

theorem codes_sra (rd rs : RegNum) (n : Nat) (s : State) : ((Instr.sra rd rs n).effect s).codes
    = some (shiftRightArith (s.readReg rs) n, false) := rfl

/-- Settles O26: the update of SLL is the left shift of Rs, read bit by bit. -/
theorem sllResult : Obligations.SllResult := by
  intro rd rs d4 s
  refine ⟨by simp [decode, decodeFormatR], refusedUnlessWritten_single rfl rfl s, fun _ => ?_⟩
  obtain ⟨t, h, hres, hcodes, hpc⟩ := exists_exec_of_codes (codes_sll rd rs d4.toNat s)
  refine ⟨t, h, ?_⟩
  rw [hres rd rfl]
  exact ⟨fun k hk => getLsbD_shiftLeftLogical _ hk, hcodes, hpc⟩

/-- Settles O27: the update of SLR is the rotation of Rs, whose bits come back at the bottom. -/
theorem slrResult : Obligations.SlrResult := by
  intro rd rs d4 s
  refine ⟨by simp [decode, decodeFormatR], refusedUnlessWritten_single rfl rfl s, fun _ => ?_⟩
  obtain ⟨t, h, hres, hcodes, hpc⟩ := exists_exec_of_codes (codes_slr rd rs d4.toNat s)
  refine ⟨t, h, ?_⟩
  rw [hres rd rfl]
  exact ⟨fun k hk => getLsbD_rotateLeft _ d4.isLt hk, rotateLeft_eq_zero_iff _ d4.isLt, hcodes, hpc⟩

/-- Settles O28: the update of SRL is the logical right shift of Rs, a division of the unsigned number. -/
theorem srlResult : Obligations.SrlResult := by
  intro rd rs d4 s
  refine ⟨by simp [decode, decodeFormatR], refusedUnlessWritten_single rfl rfl s, fun _ => ?_⟩
  obtain ⟨t, h, hres, hcodes, hpc⟩ := exists_exec_of_codes (codes_srl rd rs d4.toNat s)
  refine ⟨t, h, ?_⟩
  rw [hres rd rfl]
  exact ⟨fun k _ => getLsbD_shiftRightLogical _ d4.isLt, toNat_shiftRightLogical _ _, hcodes, hpc⟩

/-- Settles O29: the update of SRA is the arithmetic right shift of Rs, a division of the signed number that keeps its sign bit. -/
theorem sraResult : Obligations.SraResult := by
  intro rd rs d4 s
  refine ⟨by simp [decode, decodeFormatR], refusedUnlessWritten_single rfl rfl s, fun _ => ?_⟩
  obtain ⟨t, h, hres, hcodes, hpc⟩ := exists_exec_of_codes (codes_sra rd rs d4.toNat s)
  have ⟨hs, _⟩ := hcodes
  refine ⟨t, h, ?_⟩
  rw [hres rd rfl, hs]
  exact ⟨fun k hk => getLsbD_shiftRightArith _ d4.isLt hk, toInt_shiftRightArith _ _, hcodes, signBit_shiftRightArith _ _, hpc⟩

end Sys2Proof
end

section
/-! Input, output, halt (42_io_halt.md): the word that two banks of switches show and that every word is one, the digits of the display,
and what IN and OUT leave. -/

namespace Sys2Proof

open Machine Claims

/-! ## The switches (42_io_halt.md R140) -/

theorem toNat_switchWord (sw : Switches) : (switchWord sw).toNat = sw.upper.toNat * 256 + sw.lower.toNat := by
  rw [switchWord, BitVec.toNat_append, ← Nat.shiftLeft_add_eq_or_of_lt sw.lower.isLt, Nat.shiftLeft_eq]

/-- Every word is shown by some setting: its upper byte on the upper bank, its lower byte on the lower one. -/
theorem switchWord_surjective : Function.Surjective switchWord := fun v =>
  ⟨⟨v.extractLsb' 8 8, v.extractLsb' 0 8⟩,
    (BitVec.extractLsb'_append_extractLsb'_eq_extractLsb' (by decide)).trans BitVec.extractLsb'_eq_self⟩

/-! ## The display (42_io_halt.md R141) -/

theorem map_toNat_hexDigits (v : Word) : (hexDigits v).map BitVec.toNat =
    [v.toNat / 4096, v.toNat / 256 % 16, v.toNat / 16 % 16, v.toNat % 16] := by
  have htop : v.toNat / 4096 % 16 = v.toNat / 4096 := Nat.mod_eq_of_lt (Nat.div_lt_of_lt_mul v.isLt)
  simp [hexDigits, Nat.shiftRight_eq_div_pow, htop]

/-- After an OUT the trace is not empty, so the display shows the latch. -/
theorem Machine.State.display_output (s : State) (v : Word) : (s.output v).display = some (hexDigits v) := by
  cases h : s.outTrace <;> simp [State.display, h]

@[simp] theorem Machine.State.display_advance (s : State) : s.advance.display = s.display := rfl

/-! ## What the spec refuses, and what is left -/

/-- An instruction that reads no condition code and has its data address in range, or none, is refused for an unwritten register
alone (60_exceptions.md R181). -/
theorem refusedUnlessWritten_of_reads_regs {i : Instr} {s : State} (hf : i.readsFlags = false) (hd : i.dataOutOfRange s = false) :
    RefusedUnlessWritten i s (i.regsRead.all s.regWritten) := by
  simp only [RefusedUnlessWritten, Instr.specRefusal, Instr.readsUnwritten, hf, hd, List.any_eq_not_all_not, Bool.not_not]
  cases i.regsRead.all s.regWritten <;> rfl

theorem exec_codesSame {i : Instr} {s t : State} (h : exec i s = .next t) (hw : i.writesFlags = false) : CodesSame s t := by
  obtain ⟨hflags, hwritten⟩ := exec_allCodesSame h hw
  simp [CodesSame, hflags, hwritten]

/-- IN takes the setting the switches have now and uses it up (42_io_halt.md R140). -/
theorem exec_inp_input {rd : RegNum} {s t : State} (h : exec (.inp rd) s = .next t) :
    t.readReg rd = switchWord s.currentSwitches ∧ t.inputs = s.inputs.tail := by
  obtain ⟨-, rfl⟩ := (exec_eq_next_iff _ s t).1 h
  simp [Instr.effect, Effect.apply, State.switchesSeen_inputs]

/-- OUT fills the latch, the trace and the display with its source (42_io_halt.md R141). -/
theorem exec_out_output {rs : RegNum} {s t : State} (h : exec (.out rs) s = .next t) :
    t.out = s.readReg rs ∧ t.outTrace = s.outTrace ++ [s.readReg rs] ∧ t.display = some (hexDigits (s.readReg rs)) := by
  obtain ⟨-, rfl⟩ := (exec_eq_next_iff _ s t).1 h
  simp [Instr.effect, Effect.apply, State.display_output]

/-! ## The three instructions -/

/-- Settles O30: IN puts the word of the current setting into Rd, and every word is that of some setting. -/
theorem inResult : Obligations.InResult := by
  intro rs rd d4 s
  have hexec (u : State) : ∃ t, exec (.inp rd) u = .next t := ⟨_, exec_eq_apply (.inp rd) u rfl⟩
  refine ⟨by simp [decode, decodeFormatR], ((Instr.inp rd).specRefusal_eq_none_iff s).2 ⟨rfl, rfl, rfl⟩, ?_, fun sw rest hin => ?_,
    fun v => ?_⟩
  · obtain ⟨t, h⟩ := hexec s
    exact ⟨t, h, exec_codesSame h rfl, (advanceOfPc _ _ _ h).1⟩
  · obtain ⟨t, h⟩ := hexec s
    obtain ⟨hreg, hinputs⟩ := exec_inp_input h
    refine ⟨t, h, by simp [hinputs, hin], ?_⟩
    rw [hreg, s.currentSwitches_cons hin, toNat_switchWord]
  · obtain ⟨sw, rfl⟩ := switchWord_surjective v
    obtain ⟨t, h⟩ := hexec (s.setSwitches [sw])
    exact ⟨sw, t, h, (exec_inp_input h).1⟩

/-- Settles O31: OUT shows its source on latch, trace and display, and writes no register and no condition code. -/
theorem outResult : Obligations.OutResult := by
  intro rs rd d4 s
  have hrefused : RefusedUnlessWritten (.out rs) s (s.regWritten rs) := by
    simpa [Instr.regsRead] using refusedUnlessWritten_of_reads_regs (i := .out rs) (s := s) rfl rfl
  refine ⟨by simp [decode, decodeFormatR], hrefused, fun _ => ?_⟩
  have h := exec_eq_apply (.out rs) s rfl
  obtain ⟨hout, htrace, hdisplay⟩ := exec_out_output h
  refine ⟨_, h, hout, htrace, ?_, exec_codesSame h rfl, fun r => exec_regSame h (by simp [Instr.regWritten]), (advanceOfPc _ _ _ h).1⟩
  rw [hdisplay, Option.map_some, map_toNat_hexDigits]

/-- Settles O32: the update of HALT sets the halted bit, and a halted machine has no step. -/
theorem haltResult : Obligations.HaltResult := fun _ _ _ s =>
  ⟨by simp [decode, decodeFormatR], (Instr.halt.specRefusal_eq_none_iff s).2 ⟨rfl, rfl, rfl⟩, s.halt, exec_eq_apply .halt s rfl, rfl,
    step_of_halted s.halt_halted⟩

end Sys2Proof
end

section
/-! Load and store (43_load_store.md): the two refusals in the order of 60_exceptions.md R183, how the instructions end by their
address, and the one register or the one word they write. -/

namespace Sys2Proof

open Machine Claims

/-! ## Refusal and completion, the same for both -/

section LoadOrStore

variable {i : Instr} {ra rb : RegNum} {d : BitVec 8} (hi : i = .ld ra rb d ∨ i = .st ra rb d) (s : State)
include hi

/-- The two refusals in order: an unwritten register, then the address (60_exceptions.md R183). -/
theorem Instr.specRefusal_of_ld_or_st : i.specRefusal s =
    if i.readsUnwritten s then some .unwrittenRegisterRead
    else if 4096 ≤ (s.effAddr rb d).toNat then some .dataAddressOutOfRange else none := by
  have hf : i.readsFlags = false := by rcases hi with rfl | rfl <;> rfl
  rw [Instr.specRefusal, Instr.dataOutOfRange_of_ld_or_st hi, hf]
  cases i.readsUnwritten s with
  | true => rfl
  | false => by_cases h : 4096 ≤ (s.effAddr rb d).toNat <;> simp [h]

theorem exec_of_ld_or_st_out_of_range (h : 4096 ≤ (s.effAddr rb d).toNat) : exec i s = .refused .dataAddressOutOfRange :=
  exec_out_of_range i s ((Instr.dataOutOfRange_of_ld_or_st hi s).trans (decide_eq_true h))

theorem exists_exec_of_ld_or_st (h : (s.effAddr rb d).toNat < 4096) : ∃ t, exec i s = .next t :=
  ⟨_, exec_eq_apply i s ((Instr.dataOutOfRange_of_ld_or_st hi s).trans (decide_eq_false (Nat.not_le.2 h)))⟩

end LoadOrStore

/-! ## What each one writes -/

/-- The loaded word is in Ra, whatever Ra held, Ra = Rb included: the address uses the old value (43_load_store.md R151). -/
theorem exec_ld_readReg {ra rb : RegNum} {d : BitVec 8} {s t : State} (h : exec (.ld ra rb d) s = .next t) :
    t.readReg ra = s.dmem.read (s.effAddr rb d).toNat := by
  obtain ⟨-, rfl⟩ := (exec_eq_next_iff _ s t).1 h
  simp [Instr.effect, Effect.apply]

/-- The addressed word is Ra (43_load_store.md R152). -/
theorem exec_st_read {ra rb : RegNum} {d : BitVec 8} {s t : State} (h : exec (.st ra rb d) s = .next t) :
    t.dmem.read (s.effAddr rb d).toNat = s.readReg ra := by
  obtain ⟨-, rfl⟩ := (exec_eq_next_iff _ s t).1 h
  exact Memory.read_write_same s.dmem _ _

/-! ## The two instructions -/

/-- Settles O33: at an address in range LD completes, Ra takes the addressed word, and LD is no flag writer. -/
theorem loadResult : Obligations.LoadResult := by
  intro ra rb d8 s
  have hi : Instr.ld ra rb d8 = .ld ra rb d8 ∨ Instr.ld ra rb d8 = .st ra rb d8 := .inl rfl
  refine ⟨decodeOfEncode (.ld ra rb d8) rfl, ?_, fun _ => exec_of_ld_or_st_out_of_range hi s, fun _ hlt => ?_⟩
  · exact (Instr.specRefusal_of_ld_or_st hi s).trans (if_congr (by simp [Instr.readsUnwritten, Instr.regsRead]) rfl rfl)
  · obtain ⟨t, h⟩ := exists_exec_of_ld_or_st hi s hlt
    exact ⟨t, h, exec_ld_readReg h, exec_codesSame h rfl, (advanceOfPc _ _ _ h).1⟩

/-- Settles O34: at an address in range ST completes, the addressed word becomes Ra, and the rest is the frame of ST (O50). -/
theorem storeResult : Obligations.StoreResult := by
  intro ra rb d8 s
  have hi : Instr.st ra rb d8 = .ld ra rb d8 ∨ Instr.st ra rb d8 = .st ra rb d8 := .inr rfl
  refine ⟨decodeOfEncode (.st ra rb d8) rfl, ?_, fun _ _ => exec_of_ld_or_st_out_of_range hi s, fun _ _ hlt => ?_⟩
  · exact (Instr.specRefusal_of_ld_or_st hi s).trans (if_congr (by simp [Instr.readsUnwritten, Instr.regsRead]) rfl rfl)
  · obtain ⟨t, h⟩ := exists_exec_of_ld_or_st hi s hlt
    obtain ⟨hregs, -, -, ⟨himem, -, -⟩, hframe⟩ := storeFrame ra rb d8 s t _ h rfl
    exact ⟨t, h, exec_st_read h, hframe, exec_codesSame h rfl, hregs, himem, (advanceOfPc _ _ _ h).1⟩

end Sys2Proof
end

section
/-! LI and the unconditional branch (44_li_branch.md): the word that LI leaves in its register, and the address that a taken branch
goes to. -/

namespace Sys2Proof

open Machine Claims

/-! ## What LI writes (44_li_branch.md R160) -/

theorem exec_li_readReg {rb : RegNum} {d : BitVec 8} {s t : State} (h : exec (.li rb d) s = .next t) :
    t.readReg rb = d.signExtend 16 := by
  obtain ⟨-, rfl⟩ := (exec_eq_next_iff _ s t).1 h
  simp [Instr.effect, Effect.apply, sext8]

/-! ## Where a taken branch goes (44_li_branch.md R161) -/

/-- The target is the sum modulo 2^16, the offset signed. -/
theorem toNat_branchTo_taken (s : State) (d : BitVec 8) :
    ((branchTo s true d).toNat : Int) = (s.pc.toNat + 1 + d.toInt) % 65536 := by
  simp only [branchTo, if_true, BitVec.signExtend, BitVec.toNat_add, BitVec.toNat_ofNat, BitVec.toNat_ofInt]
  omega

theorem step_of_pc_out_of_range {s : State} (h : s.halted = false) (hpc : 4096 ≤ s.pc.toNat) :
    step s = .refused .fetchOutOfRange :=
  step_of_fetchInstr_error h (State.fetchInstr_out_of_range (Nat.not_lt.2 hpc))

/-! ## The two instructions -/

/-- Settles O39: LI completes, for it has no data address; Rb takes the sign-extended d8, and LI is no flag writer. -/
theorem liResult : Obligations.LiResult := by
  intro rb d8 s
  have h := exec_eq_apply (.li rb d8) s rfl
  have hreg := exec_li_readReg h
  have hint : (d8.signExtend 16).toInt = d8.toInt := BitVec.toInt_signExtend_of_le (by decide)
  refine ⟨decodeOfEncode (.li rb d8) rfl, ((Instr.li rb d8).specRefusal_eq_none_iff s).2 ⟨rfl, rfl, rfl⟩, _, h, ?_, hreg,
    exec_codesSame h rfl, ?_, (advanceOfPc _ _ _ h).1⟩
  · rw [hreg, hint]
  · simp [exec_regWritten h, Instr.regWritten]

/-- Settles O40: B reads no register and no code, its update is `pc` alone, and the next fetch depends on the target's range. -/
theorem branchResult : Obligations.BranchResult := by
  intro f d8 s
  have h := exec_eq_apply (.b d8) s rfl
  exact ⟨by simp [decode, decodeFormatI], ((Instr.b d8).specRefusal_eq_none_iff s).2 ⟨rfl, rfl, rfl⟩, _, h, rfl,
    toNat_branchTo_taken s d8, fun hrun => step_of_pc_out_of_range ((exec_halted h (by simp)).trans hrun)⟩

end Sys2Proof
end

section
/-! The conditional branches (45_cond_branch.md): where each one goes by its condition, what the conditions say about the condition codes
a flag writer left, and the values of `cond` that are no branch. -/

namespace Sys2Proof

open Machine Claims

/-! ## The four branches, said once (45_cond_branch.md R170) -/

/-- The condition and the offset of a conditional branch. -/
def Instr.condBranch : Instr → Option ((Flags → Bool) × BitVec 8)
  | .be d => some (condEqual, d)
  | .blt d => some (condLess, d)
  | .ble d => some (condLessEqual, d)
  | .bne d => some (condNotEqual, d)
  | _ => none

section CondBranch

variable {i : Instr} {cond : Flags → Bool} {d : BitVec 8} (hi : i.condBranch = some (cond, d)) (s : State)
include hi

theorem exec_of_condBranch : exec i s = .next { s with pc := branchTo s (cond s.flags) d } := by
  cases i with
  | be | blt | ble | bne => cases hi; exact exec_eq_apply _ s rfl
  | _ => cases hi

/-- A conditional branch reads the condition codes, and neither a register nor the data memory. -/
theorem Instr.specRefusal_of_condBranch : i.specRefusal s = if s.flagsWritten then none else some .unwrittenFlagRead := by
  have ⟨hregs, hflags, hdata⟩ : i.readsUnwritten s = false ∧ i.readsFlags = true ∧ i.dataOutOfRange s = false := by
    cases i with
    | be | blt | ble | bne => exact ⟨rfl, rfl, rfl⟩
    | _ => cases hi
  rw [Instr.specRefusal, hregs, hflags, hdata]
  cases s.flagsWritten <;> rfl

/-- The result of a conditional branch whose condition, in this state, is `taken`. -/
theorem result_of_condBranch {taken : Bool} (ht : cond s.flags = taken) :
    i.specRefusal s = (if s.flagsWritten then none else some .unwrittenFlagRead)
    ∧ (s.flagsWritten = true → ∃ t, exec i s = .next t ∧ t = { s with pc := branchTo s taken d }) :=
  ⟨Instr.specRefusal_of_condBranch hi s, fun _ => ⟨_, exec_of_condBranch hi s, by rw [ht]⟩⟩

end CondBranch

/-! ## The four instructions (45_cond_branch.md R171 to R174) -/

/-- Settles O41: the condition of BE is Z. -/
theorem beResult : Obligations.BeResult := fun d8 s =>
  ⟨decodeOfEncode (.be d8) rfl, result_of_condBranch rfl s (beq_true s.flags.z).symm⟩

/-- Settles O42: the condition of BLT is S xor V. -/
theorem bltResult : Obligations.BltResult := fun d8 s =>
  ⟨decodeOfEncode (.blt d8) rfl, result_of_condBranch rfl s rfl⟩

/-- Settles O43: the condition of BLE is Z or (S xor V). -/
theorem bleResult : Obligations.BleResult := fun d8 s =>
  ⟨decodeOfEncode (.ble d8) rfl, result_of_condBranch rfl s rfl⟩

/-- Settles O44: the condition of BNE is the complement of Z. -/
theorem bneResult : Obligations.BneResult := fun d8 s =>
  ⟨decodeOfEncode (.bne d8) rfl, result_of_condBranch rfl s (beq_false s.flags.z).symm⟩

/-! ## The conditions as signed comparisons (45_cond_branch.md R176) -/

/-- BE and BLT, under these codes, decide `a = b` and `a < b`; BLE and BNE then decide `a ≤ b` and `a ≠ b`. -/
structure Machine.Flags.Compares (f : Flags) (a b : Int) : Prop where
  equal : condEqual f = decide (a = b)
  less : condLess f = decide (a < b)

section Compares

variable {f : Flags} {a b : Int} (h : f.Compares a b)
include h

theorem Machine.Flags.Compares.notEqual : condNotEqual f = decide (a ≠ b) :=
  (congrArg not h.equal).trans decide_not.symm

theorem Machine.Flags.Compares.lessEqual : condLessEqual f = decide (a ≤ b) := by
  have hor : condLessEqual f = (condEqual f || condLess f) := rfl
  rw [hor, h.equal, h.less, ← Bool.decide_or]
  exact decide_eq_decide.2 le_iff_eq_or_lt.symm

end Compares

/-- The four branches from a state whose codes compare `a` with `b`. -/
theorem exec_branches_of_compares {u : State} {a b : Int} (h : u.flags.Compares a b) (d : BitVec 8) :
    exec (.be d) u = .next { u with pc := branchTo u (decide (a = b)) d }
    ∧ exec (.bne d) u = .next { u with pc := branchTo u (decide (a ≠ b)) d }
    ∧ exec (.blt d) u = .next { u with pc := branchTo u (decide (a < b)) d }
    ∧ exec (.ble d) u = .next { u with pc := branchTo u (decide (a ≤ b)) d } := by
  rw [← h.equal, ← h.notEqual, ← h.less, ← h.lessEqual]
  exact ⟨exec_of_condBranch rfl u, exec_of_condBranch rfl u, exec_of_condBranch rfl u, exec_of_condBranch rfl u⟩

theorem codesOf_of_codesSame {t u : State} {res : Word} {v : Bool} (h : CodesOf t res v) (hu : CodesSame t u) : CodesOf u res v := by
  obtain ⟨hs, hz, hv, hw⟩ := hu
  simpa only [CodesOf, hs, hz, hv, hw] using h

section CodesOf

variable {t : State} {res : Word} {v : Bool} (h : CodesOf t res v)
include h

theorem condEqual_of_codesOf : condEqual t.flags = decide (res = 0#16) := by
  obtain ⟨-, hz, -, -⟩ := h
  exact Bool.eq_iff_iff.2 (hz.trans decide_eq_true_iff.symm)

theorem condLess_of_codesOf : condLess t.flags = (res.getLsbD 15 ^^ v) := by
  obtain ⟨hs, -, hv, -⟩ := h
  rw [condLess, hs, hv]

end CodesOf

/-- The codes of a difference compare its operands, whether or not the difference overflowed. -/
theorem compares_of_codesOf_sub {t : State} {x y : Word} (h : CodesOf t (x - y) (subtractionV x y)) :
    t.flags.Compares x.toInt y.toInt where
  equal := (condEqual_of_codesOf h).trans (decide_eq_decide.2 (sub_eq_zero.trans BitVec.toInt_inj.symm))
  less := (condLess_of_codesOf h).trans (Bool.eq_iff_iff.2 ((sign_xor_subtractionV_iff x y).trans decide_eq_true_iff.symm))

/-- The codes of a result that did not overflow compare it with 0. -/
theorem compares_zero_of_codesOf {t : State} {res : Word} (h : CodesOf t res false) : t.flags.Compares res.toInt 0 where
  equal := (condEqual_of_codesOf h).trans (decide_eq_decide.2 (BitVec.toInt_inj (y := 0#16)).symm)
  less := by rw [condLess_of_codesOf h, Bool.xor_false, signBit_eq_msb, BitVec.msb_eq_toInt]

/-- A flag writer that writes a register leaves there the result its codes are of. -/
theorem codesOf_readReg_of_exec {i : Instr} {s t : State} {rd : RegNum} (hw : i.writesFlags = true) (hr : i.regWritten = some rd)
    (h : exec i s = .next t) : CodesOf t (t.readReg rd) t.flags.v := by
  obtain ⟨res, v, hc⟩ := (i.writesFlags_iff_exists_codes s).1 hw
  have hcodes := exec_codesOf hc h
  have ⟨_, _, hv, _⟩ := hcodes
  rwa [exec_result hc h hr, hv]

/-- Settles O45: the codes a state still holds are those of the result that the flag writer left, and the branches compare by them. -/
theorem branchesAfterCompare : Obligations.BranchesAfterCompare := by
  refine ⟨fun rd rs d8 s t u _ _ h hu => ?_, fun i rd d8 s t u hw hr _ h hv hu => ?_, fun rd rs d4 s t i hi _ h hv => ?_⟩
  · have hcodes : CodesOf t (s.readReg rd - s.readReg rs) (subtractionV (s.readReg rd) (s.readReg rs)) :=
      h.elim (exec_codesOf (codes_cmp rd rs s)) (exec_codesOf (codes_sub rd rs s))
    exact exec_branches_of_compares (compares_of_codesOf_sub (codesOf_of_codesSame hcodes hu)) d8
  · have hcodes : CodesOf t (t.readReg rd) false := hv ▸ codesOf_readReg_of_exec hw hr h
    obtain ⟨-, -, hblt, hble⟩ := exec_branches_of_compares (compares_zero_of_codesOf (codesOf_of_codesSame hcodes hu)) d8
    exact ⟨hblt, hble⟩
  · have ⟨hw, hr⟩ : i.writesFlags = true ∧ i.regWritten = some rd := by fin_cases hi <;> exact ⟨rfl, rfl⟩
    obtain ⟨hs, -⟩ := codesOf_readReg_of_exec hw hr h
    rw [hs, hv, Bool.xor_true]

/-! ## The other values of `cond` (45_cond_branch.md R175) -/

/-- Settles O5: classes (c) and (d) of the decoder's verdicts, which the step passes on. -/
theorem otherCondValuesAreRefused : Obligations.OtherCondValuesAreRefused := by
  refine ⟨fun d8 s hrun hpc => ⟨fun c hc hw => ?_, fun hw => ?_⟩, fun p d8 hp => ?_⟩
  · have hd : decode (s.imem.read s.pc.toNat) = .error .reserved :=
      hw ▸ (decode_eq_reserved_iff _).2 (.inr (.inr (by simpa using hc)))
    exact step_of_fetchInstr_error hrun (State.fetchInstr_of_decode_error hpc hd)
  · have hd : decode (s.imem.read s.pc.toNat) = .error .contested := hw ▸ (decode_eq_contested_iff _).2 (by simp)
    exact step_of_fetchInstr_error hrun (State.fetchInstr_of_decode_error hpc hd)
  · simp [decodeFormatI, decodeFormatC, hp]

end Sys2Proof
end

section
/-! The refusals (60_exceptions.md R181, R183): how a running machine's step ends, beside the reason for which the spec refuses it. -/

namespace Sys2Proof

open Machine

/-! ## How an instruction ends -/

/-- No instruction reads the condition codes and uses a data address: an unwritten flag read hides no address out of range. -/
theorem Instr.dataOutOfRange_of_readsFlags {i : Instr} (hf : i.readsFlags = true) (s : State) : i.dataOutOfRange s = false := by
  cases i with
  | ld | st => cases hf
  | _ => rfl

theorem exec_next_or_out_of_range (i : Instr) (s : State) :
    (∃ t, exec i s = .next t) ∨ exec i s = .refused .dataAddressOutOfRange := by
  cases h : i.dataOutOfRange s with
  | false => exact .inl ⟨_, exec_eq_apply i s h⟩
  | true => exact .inr (exec_out_of_range i s h)

/-- How an instruction ends for each reason the spec can have against it, in the order of 60_exceptions.md R183. -/
theorem Instr.specRefusal_exec_cases (i : Instr) (s : State) :
    (i.specRefusal s = some .unwrittenRegisterRead ∧ ((∃ t, exec i s = .next t) ∨ exec i s = .refused .dataAddressOutOfRange))
    ∨ (i.specRefusal s = some .unwrittenFlagRead ∧ ∃ t, exec i s = .next t)
    ∨ (i.specRefusal s = some .dataAddressOutOfRange ∧ exec i s = .refused .dataAddressOutOfRange)
    ∨ (i.specRefusal s = none ∧ ∃ t, exec i s = .next t) := by
  unfold Instr.specRefusal
  split
  next => exact .inl ⟨rfl, exec_next_or_out_of_range i s⟩
  next _ hf =>
    have hreads : i.readsFlags = true := (Bool.and_eq_true_iff.1 hf).1
    exact .inr (.inl ⟨rfl, _, exec_eq_apply i s (i.dataOutOfRange_of_readsFlags hreads s)⟩)
  next _ _ hd => exact .inr (.inr (.inl ⟨rfl, exec_out_of_range i s hd⟩))
  next _ _ hd => exact .inr (.inr (.inr ⟨rfl, _, exec_eq_apply i s hd⟩))

/-! ## How a running step ends -/

/-- A running machine stops at the fetch or at the decoding, for the spec's reason, or runs an instruction that the spec refuses for the
same reason as the step. -/
theorem step_specRefusal_cases {s : State} (h : s.halted = false) :
    (step s = .refused .fetchOutOfRange ∧ s.specRefusal = some .fetchOutOfRange)
    ∨ (step s = .refused .reservedEncoding ∧ s.specRefusal = some .reservedEncoding)
    ∨ (step s = .refused .contestedEncoding ∧ s.specRefusal = some .contestedEncoding)
    ∨ ∃ i, step s = exec i s ∧ s.specRefusal = i.specRefusal s := by
  by_cases hpc : s.pc.toNat < Config.imemWords
  case neg =>
    exact .inl ⟨step_of_fetchInstr_error h (State.fetchInstr_out_of_range hpc), by simp [State.specRefusal, s.fetch_out_of_range hpc]⟩
  case pos =>
    cases hd : decode (s.imem.read s.pc.toNat) with
    | ok i =>
      have hf := (s.fetchInstr_eq_ok_iff i).2 ⟨hpc, hd⟩
      exact .inr (.inr (.inr ⟨i, step_of_fetchInstr_ok h hf, State.specRefusal_of_fetchInstr_ok hf⟩))
    | error e =>
      have hstep := step_of_fetchInstr_error h (State.fetchInstr_of_decode_error hpc hd)
      cases e with
      | reserved => exact .inr (.inl ⟨hstep, by simp [State.specRefusal, s.fetch_in_range hpc, hd]⟩)
      | contested => exact .inr (.inr (.inl ⟨hstep, by simp [State.specRefusal, s.fetch_in_range hpc, hd]⟩))

/-- Settles O11: in each way a running step can end, the step's answer and the spec's reason are both known. -/
theorem runningStepStopsOnlyAsSpecified : Obligations.RunningStepStopsOnlyAsSpecified := by
  intro s h
  obtain ⟨hstep, hspec⟩ | ⟨hstep, hspec⟩ | ⟨hstep, hspec⟩ | ⟨i, hstep, hspec⟩ := step_specRefusal_cases h
  case inr.inr.inr =>
    rw [hstep, hspec]
    obtain ⟨hr, ⟨t, ht⟩ | hd⟩ | ⟨hr, t, ht⟩ | ⟨hr, hd⟩ | ⟨hr, t, ht⟩ := i.specRefusal_exec_cases s
    · simp [hr, ht]
    · simp [hr, hd]
    · simp [hr, ht]
    · simp [hr, hd]
    · simp [hr, ht]
  all_goals simp [hstep, hspec]

end Sys2Proof
end

section
/-! The end of a run (70_reset_and_hazards.md R207): HALT is the one instruction that ends it. -/

namespace Sys2Proof

open Machine

/-- An instruction run by a machine that was not halted leaves it halted exactly when it is HALT. -/
theorem exec_halted_iff {i : Instr} {s t : State} (h : exec i s = .next t) (hs : s.halted = false) :
    t.halted = true ↔ i = .halt := by
  constructor
  · intro ht
    by_contra hi
    simp [exec_halted h hi, hs] at ht
  · rintro rfl
    obtain ⟨-, rfl⟩ := (exec_eq_next_iff .halt s t).1 h
    exact s.halt_halted

theorem exec_halt_pc {s t : State} (h : exec .halt s = .next t) : t.pc = s.pc := by
  obtain ⟨-, rfl⟩ := (exec_eq_next_iff .halt s t).1 h
  exact s.halt_pc

/-- Settles O56: only HALT sets the halted bit, it leaves `pc` at its own address, and a halted machine has no step. -/
theorem haltEndsTheRun : Obligations.HaltEndsTheRun := by
  intro s t h
  obtain ⟨hs, i, hf, hi⟩ := (step_eq_next_iff s t).1 h
  have hfinal : t.final = true ↔ i = .halt := exec_halted_iff hi hs
  refine ⟨by simpa [hf] using hfinal, fun ht => ⟨?_, fun u => ?_⟩⟩
  · obtain rfl := hfinal.1 ht
    exact exec_halt_pc hi
  · simp [step_of_halted ht]

end Sys2Proof
end

section
/-! Completion, and the start of a launch (10_state.md R39): the memories read as the lists supplied, and the spec refuses every read of
what no instruction has written yet. -/

namespace Sys2Proof

open Machine

/-- Settles O12: an instruction whose data address is in range, or that has none, completes with its update. -/
theorem everyInstructionCompletes : Obligations.EveryInstructionCompletes :=
  fun i s h => ⟨_, exec_eq_apply i s h⟩

/-! ## The spec's refusal of unwritten reads (60_exceptions.md R181, R183) -/

/-- An unwritten register is the first reason against an instruction. -/
theorem Instr.specRefusal_of_readsUnwritten {i : Instr} {s : State} (h : i.readsUnwritten s = true) :
    i.specRefusal s = some .unwrittenRegisterRead := by
  simp [Instr.specRefusal, h]

/-- Where no register is written, every instruction that reads one is refused. -/
theorem Instr.specRefusal_of_no_regWritten {i : Instr} {s : State} (hs : ∀ r, s.regWritten r = false) (hi : i.regsRead ≠ []) :
    i.specRefusal s = some .unwrittenRegisterRead := by
  obtain ⟨r, hr⟩ := List.exists_mem_of_ne_nil _ hi
  exact Instr.specRefusal_of_readsUnwritten (List.any_eq_true.2 ⟨r, hr, by simp [hs r]⟩)

/-- The instructions that read the condition codes are the conditional branches (10_state.md R28). -/
theorem Instr.exists_condBranch_of_readsFlags {i : Instr} (hi : i.readsFlags = true) :
    ∃ cond d, i.condBranch = some (cond, d) := by
  cases i with
  | be | blt | ble | bne => exact ⟨_, _, rfl⟩
  | _ => cases hi

/-- Where no condition code is written, every instruction that reads them is refused. -/
theorem Instr.specRefusal_of_not_flagsWritten {i : Instr} {s : State} (hs : s.flagsWritten = false) (hi : i.readsFlags = true) :
    i.specRefusal s = some .unwrittenFlagRead := by
  obtain ⟨cond, d, hb⟩ := Instr.exists_condBranch_of_readsFlags hi
  simp [Instr.specRefusal_of_condBranch hb, hs]

/-! ## The state at the start of a launch -/

/-- Cutting the list at the size `n` of the memory loses nothing of a list that fits. -/
theorem Machine.Memory.read_ofWordsFrom_take {ws : List Word} {n a : Nat} (hn : ws.length ≤ n) (h : a < ws.length) :
    (Memory.ofWordsFrom 0 (ws.take n)).read a = ws[a] := by
  simpa [List.take_of_length_le hn] using Memory.read_ofWordsFrom ws 0 a h

section Launch

variable (prog data : List Word) (settings : List Switches)

theorem Machine.State.launch_regWritten (r : RegNum) : (State.launch prog data settings).regWritten r = false := by
  simp [State.regWritten, State.launch, State.reset]

theorem Machine.State.launch_flagsWritten : (State.launch prog data settings).flagsWritten = false := rfl

end Launch

/-- Settles O13: the memories hold the supplied lists whole, and nothing is written, so what reads a register or a condition code is
refused by the spec. -/
theorem launchStartsAsSpecified : Obligations.LaunchStartsAsSpecified := by
  intro prog data settings hprog hdata
  have hregs := State.launch_regWritten prog data settings
  have hflags := State.launch_flagsWritten prog data settings
  exact ⟨rfl, rfl, rfl, rfl, hregs, hflags,
    fun _ => Memory.read_ofWordsFrom_take hprog.le, fun _ => Memory.read_ofWordsFrom_take hdata.le,
    fun _ => Instr.specRefusal_of_no_regWritten hregs, fun _ => Instr.specRefusal_of_not_flagsWritten hflags⟩

end Sys2Proof
end
